-- ==== Sys2Proof/Word.lean ====
section
/-! DEFINITION. The words of the RESKDF engine: bytes, 32-bit bus words, byte strings of a fixed length and the
42-bit HOSTTX transcription word (00_scope.md R8, R9; 30_encoding.md R90, R96). -/

namespace Sys2Proof

/-- One byte of a byte string (00_scope.md R9). -/
abbrev Byte := BitVec 8

/-- The 32-bit unit of every host access, of a command word and of SHA-256 (R8, R63, R90, R160). -/
abbrev Word := BitVec 32

/-- A byte string `B[0], ..., B[n-1]` of length `n` (00_scope.md R9). -/
abbrev ByteStr (n : Nat) := Vector Byte n

/-- A host-program step as it is transcribed, format HOSTTX (30_encoding.md R96). -/
abbrev TxWord := BitVec 42

/-- `0^n`, the byte string of `n` zero bytes (00_scope.md R9). -/
def zeroBytes (n : Nat) : ByteStr n := Vector.replicate n 0

end Sys2Proof
end

