-- ==== Sys2Proof/Syntax.lean ====
section
/-! DEFINITION. The syntax of the RESKDF engine: the instruction type (one constructor per row of the opcode table:
six commands, the illegal command word, three host transactions), the raw words they are read from, the register
names, and the lines of a host program (30_encoding.md R90 to R99, 10_state.md R20). -/

namespace Sys2Proof

/-- The instructions: the commands the engine completes (30_encoding.md R91, R92) and the transactions a host program
is made of (20_memory.md R75, R76). -/
inductive Instr where
  | kdfResstar
  | akaVerify
  | akaAuth
  | bcdEnc
  | bcdDec
  | zeroize
  /-- Any CMD word that is none of the six (R92); the word is kept so that nothing of the encoding is lost. -/
  | illegal (word : Word)
  | rd (off : BitVec 8)
  | wr (off : BitVec 8) (value : Word)
  | poll (off : BitVec 8) (mask : Word)
  deriving DecidableEq, Repr

/-- A word to decode, in one of the table's two formats: CMD32 (R90) or HOSTTX (R96). -/
inductive RawWord where
  | cmd32 (w : Word)
  | hosttx (w : TxWord)
  deriving DecidableEq, Repr

/-- Why the transcriber refuses a HOSTTX word (30_encoding.md R96). -/
inductive DecodeError where
  /-- `KIND = 0b11`. -/
  | kindReserved
  /-- An RD with `DATA ≠ 0`. -/
  | rdDataNonzero
  deriving DecidableEq, Repr

/-- The byte-array fields of the register bank (10_state.md R43 to R54). -/
inductive Field where
  | k | opc | rand | autn | res | ck | ik | resstar | sqn | maca | bcdText | bcdPacked
  deriving DecidableEq, Repr

/-- What an aligned window offset selects (10_state.md R20): a control, status or parameter register, word `w` of a
byte-array field, or reserved space (20_memory.md R72). -/
inductive Reg where
  | id | version | ctrl | cmd | status | loaded | mcc | mnc | resLen | variant | bcdCtrl
  | data (f : Field) (w : Nat)
  | reserved
  deriving DecidableEq, Repr

/-- One line of a host program after `NAME+k` and numbers are read: a transaction (30_encoding.md R97) or a
pseudo-instruction (R98). -/
inductive Line where
  | tx (i : Instr)
  /-- `EXEC <mnemonic>`. -/
  | exec (c : Instr)
  | wait
  /-- `LOAD <field>, <hex string>`. -/
  | load (f : Field) (bytes : List Byte)
  | ack
  | srst
  deriving DecidableEq, Repr

end Sys2Proof
end

