-- ==== Sys2Proof/WellFormed.lean ====
section
/-! DEFINITION. Which instruction terms stand for an encoding (30_encoding.md R91, R92, R96). -/

namespace Sys2Proof

/-- The six commands of 30_encoding.md R91. -/
def Instr.isCommand : Instr → Bool
  | .kdfResstar | .akaVerify | .akaAuth | .bcdEnc | .bcdDec | .zeroize => true
  | .illegal _ | .rd _ | .wr _ _ | .poll _ _ => false

/-- What a CMD word can decode to: a command or an illegal word (R92). -/
def Instr.isCmdWord : Instr → Bool
  | .illegal _ => true
  | .kdfResstar | .akaVerify | .akaAuth | .bcdEnc | .bcdDec | .zeroize => true
  | .rd _ | .wr _ _ | .poll _ _ => false

/-- A word is one of the six assigned command words: RSVD is 0 and OPCODE is in 0x01 to 0x06 (R91). -/
def assignedWord (w : Word) : Bool := 1 ≤ w.toNat && w.toNat ≤ 6

/-- `illegal w` stands for an encoding only where `w` is none of the six words (R92). Every other term is well-formed:
any offset can be written down, a misaligned one too (R96). -/
def Instr.wf : Instr → Bool
  | .illegal w => !assignedWord w
  | .kdfResstar | .akaVerify | .akaAuth | .bcdEnc | .bcdDec | .zeroize => true
  | .rd _ | .wr _ _ | .poll _ _ => true

/-- A line's own checks: a `tx` line holds a transaction, and EXEC names one of the six mnemonics (R97 to R99). -/
def Line.wf : Line → Bool
  | .tx i => !i.isCmdWord
  | .exec c => c.isCommand
  | .wait | .load _ _ | .ack | .srst => true

end Sys2Proof
end

