-- ==== Sys2Proof/Decode.lean ====
section
/-! DEFINITION. Decoding and encoding of CMD32 and HOSTTX words (30_encoding.md R90 to R96). -/

namespace Sys2Proof

/-- CMD32 field OPCODE, bits [7:0] (R90). -/
def opcodeOf (w : Word) : BitVec 8 := w.extractLsb' 0 8

/-- CMD32 field RSVD, bits [31:8] (R90). -/
def rsvdOf (w : Word) : BitVec 24 := w.extractLsb' 8 24

/-- `decode(word)` of R92: RSVD is checked first, then OPCODE is looked up. It is total: every other word is illegal. -/
def decodeCmd (w : Word) : Instr :=
  if rsvdOf w ≠ 0 then .illegal w
  else match (opcodeOf w).toNat with
    | 0x01 => .kdfResstar
    | 0x02 => .akaVerify
    | 0x03 => .akaAuth
    | 0x04 => .bcdEnc
    | 0x05 => .bcdDec
    | 0x06 => .zeroize
    | _ => .illegal w

/-- HOSTTX field KIND, bits [41:40] (R96). -/
def txKind (w : TxWord) : BitVec 2 := w.extractLsb' 40 2

/-- HOSTTX field OFF, bits [39:32] (R96). -/
def txOff (w : TxWord) : BitVec 8 := w.extractLsb' 32 8

/-- HOSTTX field DATA, bits [31:0] (R96). -/
def txData (w : TxWord) : Word := w.extractLsb' 0 32

/-- A HOSTTX word as the transcriber reads it (R96): KIND 0b11 and an RD with DATA ≠ 0 are refused by name. A
misaligned OFF is not refused here. -/
def decodeTx (w : TxWord) : Except DecodeError Instr :=
  match (txKind w).toNat with
  | 0 => if txData w = 0 then .ok (.rd (txOff w)) else .error .rdDataNonzero
  | 1 => .ok (.wr (txOff w) (txData w))
  | 2 => .ok (.poll (txOff w) (txData w))
  | _ => .error .kindReserved

/-- The decoder, total on every raw word of the two formats. -/
def decode : RawWord → Except DecodeError Instr
  | .cmd32 w => .ok (decodeCmd w)
  | .hosttx w => decodeTx w

/-- The CMD32 word of a command with the given OPCODE, its RSVD bits 0 (R90). -/
def cmdWord (opcode : BitVec 8) : Word := 0#24 ++ opcode

/-- The HOSTTX word with the given KIND, OFF and DATA (R96). -/
def txWord (kind : BitVec 2) (off : BitVec 8) (data : Word) : TxWord := kind ++ off ++ data

/-- The encoder, from the tables of R91 and R96. -/
def encode : Instr → RawWord
  | .kdfResstar => .cmd32 (cmdWord 0x01)
  | .akaVerify => .cmd32 (cmdWord 0x02)
  | .akaAuth => .cmd32 (cmdWord 0x03)
  | .bcdEnc => .cmd32 (cmdWord 0x04)
  | .bcdDec => .cmd32 (cmdWord 0x05)
  | .zeroize => .cmd32 (cmdWord 0x06)
  | .illegal w => .cmd32 w
  | .rd off => .hosttx (txWord 0b00 off 0)
  | .wr off v => .hosttx (txWord 0b01 off v)
  | .poll off m => .hosttx (txWord 0b10 off m)

/-- A HOSTTX word read from a number. A number above 42 bits is no HOSTTX word: the refused word whose KIND is 0b11
stands for it (log entry 14). -/
def txWordOfNat (w : Nat) : TxWord :=
  if w < 2 ^ 42 then BitVec.ofNat 42 w else txWord 0b11 0 0

/-- The raw word of `nbits` bits of an opcode-table row: CMD32 rows have 32 bits, HOSTTX rows more (R90, R96). -/
def rawOfNat (nbits w : Nat) : RawWord :=
  if nbits ≤ 32 then .cmd32 (BitVec.ofNat 32 w) else .hosttx (txWordOfNat w)

/-- The instruction the decoder reads from a table row's bits, none where it refuses. -/
def decodeTableWord (nbits w : Nat) : Option Instr :=
  match decode (rawOfNat nbits w) with
  | .ok i => some i
  | .error _ => none

end Sys2Proof
end

