-- ==== Sys2Proof/Config.lean ====
section
/-! DEFINITION. What the spec leaves OPEN (00_scope.md R7): the Milenage port, the command duration, the base address
of the window, and the values of unspecified reads. Each is an opaque constant, so no proof can see its value
(log entries 1, 2, 3, 9). -/

namespace Sys2Proof

/-- The record the VECTORS call returns (42_aka.md R131). The engine discards `maca0` and `macs0`. -/
structure VectorsReply where
  res : ByteStr 16
  resLen : BitVec 5
  ck : ByteStr 16
  ik : ByteStr 16
  ak : ByteStr 6
  maca0 : ByteStr 8
  macs0 : ByteStr 8
  deriving DecidableEq, Repr, Inhabited

/-- The pair the F1 call returns (42_aka.md R132). The engine discards `macs`. -/
structure F1Reply where
  maca : ByteStr 8
  macs : ByteStr 8
  deriving DecidableEq, Repr, Inhabited

/-- The type of `milVectors(k, opc, rand, variant, amf)` (42_aka.md R131): total, deterministic, free of side
effects (R13, R133). -/
abbrev VectorsPort := ByteStr 16 → ByteStr 16 → ByteStr 16 → BitVec 8 → ByteStr 2 → VectorsReply

/-- The type of `milF1(k, opc, rand, variant, amf, sqn)` (42_aka.md R132). -/
abbrev F1Port := ByteStr 16 → ByteStr 16 → ByteStr 16 → BitVec 8 → ByteStr 2 → ByteStr 6 → F1Reply

/-- The Milenage port's VECTORS function (OPEN, R7 and R131; log entry 3). -/
opaque Config.milVectors : VectorsPort

/-- The Milenage port's F1 function (OPEN, R7 and R132; log entry 3). -/
opaque Config.milF1 : F1Port

/-- CMD_DURATION of the command whose accept is draw `n`, in host-transaction slots counted from the accept's own
(OPEN, R7 and R275; a value 0 is taken as 1; log entry 1). -/
opaque Config.cmdDuration : Nat → Nat

/-- The value draw `n` gives an unspecified read inside the BUSY window (R270; log entry 2). -/
opaque Config.freeRead : Nat → Word

/-- BASE, the host address of window offset 0x000 (OPEN, R7 and R82; log entry 9). -/
opaque Config.base : Nat

end Sys2Proof
end

