-- ==== Sys2Proof/Machine/State.lean ====
section
/-! DEFINITION. The state of the RESKDF engine and of its host, as plain data, and the reset state
(10_state.md R20 to R59; 70_reset_and_hazards.md R260, R263). -/

namespace Sys2Proof.Machine

/-- The error code of a completion (60_exceptions.md R220). The reserved codes 0x8 to 0xF are never produced, so they
have no constructor. -/
inductive ErrCode where
  | none | illegalCmd | missingInput | badPlmn | badResLen | authFailure | badDigit | badBcdLen
  deriving DecidableEq, Repr

/-- PHASE, and PENDING where it is defined (10_state.md R58): only in BUSY. `slotsLeft` is the model's own countdown:
how many host transactions are still performed before the completion step (R275; log entry 1). -/
inductive Phase where
  | idle
  | busy (pending : Word) (slotsLeft : Nat)
  deriving DecidableEq, Repr

/-- A tracked field of `n` bytes and its hidden write mask of `m` bits, one per word (10_state.md R57). -/
structure Tracked (n m : Nat) where
  bytes : ByteStr n
  mask : BitVec m
  deriving DecidableEq, Repr

/-- The engine: CTRL, STATUS, the parameter registers, the data registers and the hidden state. ID and VERSION are
constants and CMD, SOFT_RESET, LOADED, BUSY and `irq` are functions of this state (R21 to R36, R58). -/
structure Engine where
  irqEn : Bool
  phase : Phase
  done : Bool
  err : Bool
  errcode : ErrCode
  werr : Bool
  resstarValid : Bool
  sqnValid : Bool
  macOk : Bool
  mcc : BitVec 16
  mnc : BitVec 16
  resLen : BitVec 5
  variant : BitVec 8
  ndig : BitVec 5
  fill : BitVec 4
  k : Tracked 16 4
  opc : Tracked 16 4
  rand : Tracked 16 4
  autn : Tracked 16 4
  res : Tracked 16 4
  ck : Tracked 16 4
  ik : Tracked 16 4
  resstar : ByteStr 16
  sqn : ByteStr 6
  maca : ByteStr 8
  bcdText : Tracked 16 4
  bcdPacked : Tracked 8 2
  deriving DecidableEq, Repr

/-- The recorded result of one read (20_memory.md R75, R76): the program index and offset it was made at, and the
value returned. -/
structure ReadResult where
  index : Nat
  off : BitVec 8
  value : Word
  deriving DecidableEq, Repr

/-- The whole system: the engine; the host program, its counter and the results it has recorded, newest first
(R59, R75); the draws of free values made so far (the model's own counter, log entry 2); and the level the `rst`
input has at each coming step, deasserted past the list's end (R62, R260; log entry 6). -/
structure State where
  engine : Engine
  program : List TxWord
  pc : Nat
  results : List ReadResult
  draws : Nat
  rst : List Bool
  deriving DecidableEq, Repr

/-- Why a run stops. -/
inductive Fault where
  /-- Raised by `rd`, `wr` and `poll` at an offset that is not a multiple of 4 (20_memory.md R64, R75): the host model
  records a fault and the program does not continue. Safe: the spec gives this end. -/
  | busError (off : BitVec 8)
  deriving DecidableEq, Repr

/-- Why there is no step. -/
inductive Refusal where
  /-- An instruction without a meaning: none in this model. Safe. -/
  | notModelled (mnemonic : String)
  /-- The next program word has KIND 0b11: the transcriber refuses it (30_encoding.md R96). Raised by the fetch.
  Safe: no such host program exists. -/
  | txKindReserved
  /-- The next program word is an RD with DATA ≠ 0: the transcriber refuses it (R96). Raised by the fetch. Safe. -/
  | txRdDataNonzero
  deriving DecidableEq, Repr

/-- What a command's pseudocode leaves: the engine after its writes, and the code of its first `raise`, or NONE
(44_maintenance.md R201). -/
structure CmdResult where
  engine : Engine
  code : ErrCode
  deriving DecidableEq, Repr

/-- The response to a host access (20_memory.md R62): OK or BUS_ERROR. -/
inductive BusResponse where
  | ok
  | busError
  deriving DecidableEq, Repr

/-- The engine's answer to one host access: response, data (0 with a BUS_ERROR, R64) and the state after it. -/
structure BusReply where
  resp : BusResponse
  data : Word
  state : State
  deriving DecidableEq, Repr

/-- Which agent takes the next step (20_memory.md R60): the `rst` input resets the engine, an instruction runs (a
completion or a host transaction), the transcriber refuses, or the IDLE engine waits for a host whose program has
ended. -/
inductive Move where
  | hardReset (s : State)
  | run (i : Instr) (s : State)
  | refuse (r : Refusal)
  | wait (s : State)
  deriving DecidableEq, Repr

/-- A field with its mask clear: all bytes 0, no word loaded (R57, R260). -/
def Tracked.cleared (n m : Nat) : Tracked n m := ⟨zeroBytes n, 0⟩

/-- A field a command writes whole: every mask bit set (R57). -/
def Tracked.full {n m : Nat} (b : ByteStr n) : Tracked n m := ⟨b, BitVec.allOnes m⟩

/-- The engine's reset state (70_reset_and_hazards.md R260); hardware and soft reset give the same one (R262). -/
def Engine.reset : Engine where
  irqEn := false
  phase := .idle
  done := false
  err := false
  errcode := .none
  werr := false
  resstarValid := false
  sqnValid := false
  macOk := false
  mcc := 0
  mnc := 0
  resLen := 0
  variant := 0
  ndig := 0
  fill := 0
  k := .cleared 16 4
  opc := .cleared 16 4
  rand := .cleared 16 4
  autn := .cleared 16 4
  res := .cleared 16 4
  ck := .cleared 16 4
  ik := .cleared 16 4
  resstar := zeroBytes 16
  sqn := zeroBytes 6
  maca := zeroBytes 8
  bcdText := .cleared 16 4
  bcdPacked := .cleared 8 2

/-- The system after reset: the engine IDLE, the host at `pc = 0` with no program loaded (R260, R263). -/
def State.reset : State where
  engine := .reset
  program := []
  pc := 0
  results := []
  draws := 0
  rst := []

end Sys2Proof.Machine
end

