-- ==== Sys2Proof/Machine/Operands.lean ====
section
/-! DEFINITION. Operand forms: byte lanes of words, load tracking, the register map, the parts of AUTN, digits and
number strings (20_memory.md R66, R69, R72; 10_state.md R20, R57; 42_aka.md R135; 41_bcd.md R110; 00_scope.md R9). -/

namespace Sys2Proof.Machine

/-! ### Byte strings -/

/-- `B[j]`, and 0 past the end: a word's lanes beyond the field read 0 (R66). -/
def byteAt {n : Nat} (b : ByteStr n) (j : Nat) : Byte := if h : j < n then b[j] else 0

/-- `B[i..i+m)` (R9). -/
def slice {n : Nat} (b : ByteStr n) (i m : Nat) : ByteStr m := Vector.ofFn fun j => byteAt b (i + j.val)

/-- `A ⊕ B`, byte by byte (R9). -/
def xorBytes {n : Nat} (a b : ByteStr n) : ByteStr n := Vector.ofFn fun j => a[j.val] ^^^ b[j.val]

/-- `B[0..len) ‖ 0^(n-len)` (42_aka.md R137). -/
def keepFirst {n : Nat} (b : ByteStr n) (len : Nat) : ByteStr n :=
  Vector.ofFn fun j => if j.val < len then b[j.val] else 0

/-! ### Lanes (20_memory.md R66) -/

/-- Lane `i` of a word: bits `[31-8i : 24-8i]`. -/
def lane (v : Word) (i : Nat) : Byte := v.extractLsb' (24 - 8 * i) 8

/-- `word(F, w)`: bytes `4w` to `4w+3`, the first the most significant. -/
def wordOf {n : Nat} (b : ByteStr n) (w : Nat) : Word :=
  byteAt b (4 * w) ++ byteAt b (4 * w + 1) ++ byteAt b (4 * w + 2) ++ byteAt b (4 * w + 3)

/-- `write(F, w, v)`: the lanes of `v` that lie in the field are stored in bytes `4w` to `4w+3`. -/
def setWord {n : Nat} (b : ByteStr n) (w : Nat) (v : Word) : ByteStr n :=
  Vector.ofFn fun j => if j.val / 4 = w then lane v (j.val % 4) else b[j.val]

/-! ### Load tracking (10_state.md R57) -/

/-- `loaded(F)`: every bit of the write mask is 1. -/
def Tracked.loaded {n m : Nat} (f : Tracked n m) : Bool := f.mask == BitVec.allOnes m

/-- A host write of word `w` that the engine honours: store the lanes, set mask bit `w` (20_memory.md R69). -/
def Tracked.hostWrite {n m : Nat} (f : Tracked n m) (w : Nat) (v : Word) : Tracked n m :=
  ⟨setWord f.bytes w v, f.mask ||| BitVec.ofNat m (2 ^ w)⟩

/-! ### The register map (10_state.md R20) -/

/-- The ID constant, "RSK1" (R21). -/
def idValue : Word := 0x52534B31

/-- The VERSION constant (R22). -/
def versionValue : Word := 0x00010000

/-- The register at an aligned offset of the 256-byte window (R20, R72): row `off / 16`, word `off / 4 mod 4`. -/
def regAt (off : BitVec 8) : Reg :=
  let w := off.toNat / 4 % 4
  match off.toNat / 16 with
  | 0x0 => match w with
    | 0 => .id
    | 1 => .version
    | 2 => .ctrl
    | _ => .cmd
  | 0x1 => match w with
    | 0 => .status
    | 1 => .loaded
    | 2 => .mcc
    | _ => .mnc
  | 0x2 => match w with
    | 0 => .resLen
    | 1 => .variant
    | 2 => .bcdCtrl
    | _ => .reserved
  | 0x3 => .data .k w
  | 0x4 => .data .opc w
  | 0x5 => .data .rand w
  | 0x6 => .data .autn w
  | 0x7 => .data .res w
  | 0x8 => .data .ck w
  | 0x9 => .data .ik w
  | 0xA => .data .resstar w
  | 0xB => if w < 2 then .data .sqn w else .data .maca (w - 2)
  | 0xC => .data .bcdText w
  | 0xD => if w < 2 then .data .bcdPacked w else .reserved
  | _ => .reserved

/-- The base offset of a field (R20). -/
def fieldBase : Field → Nat
  | .k => 0x030 | .opc => 0x040 | .rand => 0x050 | .autn => 0x060 | .res => 0x070 | .ck => 0x080 | .ik => 0x090
  | .resstar => 0x0A0 | .sqn => 0x0B0 | .maca => 0x0B8 | .bcdText => 0x0C0 | .bcdPacked => 0x0D0

/-- The length of a field in bytes (R20). -/
def fieldBytes : Field → Nat
  | .sqn => 6
  | .maca | .bcdPacked => 8
  | .k | .opc | .rand | .autn | .res | .ck | .ik | .resstar | .bcdText => 16

/-- The number of words a field occupies, `ceil(n/4)` (R20). -/
def fieldWords (f : Field) : Nat := (fieldBytes f + 3) / 4

/-- The nine tracked fields (R20, R36). RESSTAR, SQN and MACA are read-only and have no mask. -/
def fieldTracked : Field → Bool
  | .resstar | .sqn | .maca => false
  | .k | .opc | .rand | .autn | .res | .ck | .ik | .bcdText | .bcdPacked => true

/-- The writable registers of 70_reset_and_hazards.md R271: a write to one that is dropped while BUSY sets WERR. -/
def regWritable : Reg → Bool
  | .cmd | .mcc | .mnc | .resLen | .variant | .bcdCtrl => true
  | .data f _ => fieldTracked f
  | .id | .version | .ctrl | .status | .loaded | .reserved => false

/-- The bits of a register that are not reserved, those an unspecified read may show (R270, 93 item I4). -/
def readableBits : Reg → Word
  | .resLen => 0x0000001F
  | .loaded => 0x000001FF
  | .status => 0x00000F7F
  | .ctrl => 0x00000003
  | .mcc | .mnc => 0x0000FFFF
  | .variant => 0x000000FF
  | .bcdCtrl => 0x00000F1F
  | .data .sqn w => if w = 0 then 0xFFFFFFFF else 0xFFFF0000
  | .data .k _ | .data .opc _ | .data .rand _ | .data .autn _ | .data .res _ | .data .ck _ | .data .ik _
  | .data .resstar _ | .data .maca _ | .data .bcdText _ | .data .bcdPacked _ => 0xFFFFFFFF
  | .id | .version | .cmd => 0xFFFFFFFF
  | .reserved => 0

/-- The byte-array fields a command may write (44_maintenance.md R203). -/
def fieldsWritten : Instr → List Field
  | .kdfResstar => [.resstar]
  | .akaVerify => [.resstar, .sqn, .maca, .ck, .ik, .res]
  | .akaAuth => [.resstar, .sqn, .maca, .ck, .ik, .res]
  | .bcdEnc => [.bcdPacked]
  | .bcdDec => [.bcdText]
  | .zeroize => [.k, .opc, .rand, .autn, .res, .ck, .ik, .resstar, .sqn, .maca, .bcdText, .bcdPacked]
  | .illegal _ | .rd _ | .wr _ _ | .poll _ _ => []

/-- Whether a command may write RES_LEN, the one parameter register in a write set (R203). -/
def resLenWritten : Instr → Bool
  | .akaVerify | .akaAuth | .zeroize => true
  | .kdfResstar | .bcdEnc | .bcdDec | .illegal _ | .rd _ | .wr _ _ | .poll _ _ => false

/-- A register is in the write set of a command (R203). The valid flags and LOADED, which R270 makes unspecified for
every pending command, are treated in `unspecifiedBits`. -/
def mayWrite (c : Instr) : Reg → Bool
  | .data f _ => (fieldsWritten c).contains f
  | .resLen => resLenWritten c
  | .id | .version | .ctrl | .cmd | .status | .loaded | .mcc | .mnc | .variant | .bcdCtrl | .reserved => false

/-- The bits a read shows unspecified while command `c` is pending (R270): LOADED, the three valid flags of STATUS, and
the registers of the write set. -/
def unspecifiedBits (c : Instr) (r : Reg) : Word :=
  match r with
  | .loaded => readableBits .loaded
  | .status => 0x00000070
  | r => if mayWrite c r then readableBits r else 0

/-! ### The parts of AUTN (42_aka.md R135) -/

/-- `SQNAK = AUTN[0..6)`, "SEQ⊕AK" and "SQN⊕AK" alike (90_conflicts.md C1). -/
def sqnakOf (autn : ByteStr 16) : ByteStr 6 := slice autn 0 6

/-- `AMF = AUTN[6..8)`. -/
def amfOf (autn : ByteStr 16) : ByteStr 2 := slice autn 6 2

/-- `MACN = AUTN[8..16)`. -/
def macnOf (autn : ByteStr 16) : ByteStr 8 := slice autn 8 8

/-! ### Numbers as bytes (00_scope.md R9) -/

/-- `ascii(s)` of a list of characters. -/
def ascii (s : List Char) : List Byte := s.map fun c => BitVec.ofNat 8 c.toNat

/-- `dec3(n)` in ASCII: three decimal digits, padded with leading '0' characters. -/
def dec3 (n : Nat) : List Byte :=
  [BitVec.ofNat 8 (0x30 + n / 100 % 10), BitVec.ofNat 8 (0x30 + n / 10 % 10), BitVec.ofNat 8 (0x30 + n % 10)]

/-- `u16be(n) = [n[15:8], n[7:0]]`. -/
def u16be (n : Nat) : List Byte := [BitVec.ofNat 8 (n / 256), BitVec.ofNat 8 n]

/-! ### Digits (41_bcd.md R110) -/

/-- `hexval(c)`: the digit of an ASCII character, none where it is invalid. Both letter cases are accepted. -/
def hexval (c : Byte) : Option (BitVec 4) :=
  let n := c.toNat
  if 0x30 ≤ n ∧ n ≤ 0x39 then some (BitVec.ofNat 4 (n - 0x30))
  else if 0x61 ≤ n ∧ n ≤ 0x66 then some (BitVec.ofNat 4 (n - 0x61 + 10))
  else if 0x41 ≤ n ∧ n ≤ 0x46 then some (BitVec.ofNat 4 (n - 0x41 + 10))
  else none

/-- `hexchar(d)`: the lower-case ASCII character of a digit. -/
def hexchar (d : BitVec 4) : Byte :=
  if d.toNat ≤ 9 then BitVec.ofNat 8 (0x30 + d.toNat) else BitVec.ofNat 8 (0x61 + (d.toNat - 10))

end Sys2Proof.Machine
end

