-- ==== Sys2Proof/Machine/Flags.lean ====
section
/-! DEFINITION. STATUS, LOADED and the interrupt: how the flags read, what a STATUS write clears, what an accept clears
and what a completion reports (10_state.md R27 to R36; 60_exceptions.md R220, R226 to R228; 44_maintenance.md R200,
R201). -/

namespace Sys2Proof.Machine

/-- The number of an error code (R220). -/
def ErrCode.code : ErrCode → BitVec 4
  | .none => 0x0
  | .illegalCmd => 0x1
  | .missingInput => 0x2
  | .badPlmn => 0x3
  | .badResLen => 0x4
  | .authFailure => 0x5
  | .badDigit => 0x6
  | .badBcdLen => 0x7

/-- `PHASE = BUSY`, which is STATUS.BUSY (R27, R58). -/
def Engine.isBusy (e : Engine) : Bool :=
  match e.phase with
  | .idle => false
  | .busy _ _ => true

/-- STATUS as it reads (R35): ERRCODE [11:8], 0 [7], MAC_OK [6], SQN_VALID [5], RESSTAR_VALID [4], WERR [3], ERR [2],
DONE [1], BUSY [0]. -/
def statusWord (e : Engine) : Word :=
  0#20 ++ e.errcode.code ++ 0#1 ++ BitVec.ofBool e.macOk ++ BitVec.ofBool e.sqnValid ++
    BitVec.ofBool e.resstarValid ++ BitVec.ofBool e.werr ++ BitVec.ofBool e.err ++ BitVec.ofBool e.done ++
    BitVec.ofBool e.isBusy

/-- LOADED as it reads (R36): bit `t` is `loaded(F)` of the field with tracked bit `t`. -/
def loadedWord (e : Engine) : Word :=
  0#23 ++ BitVec.ofBool e.bcdPacked.loaded ++ BitVec.ofBool e.bcdText.loaded ++ BitVec.ofBool e.ik.loaded ++
    BitVec.ofBool e.ck.loaded ++ BitVec.ofBool e.res.loaded ++ BitVec.ofBool e.autn.loaded ++
    BitVec.ofBool e.rand.loaded ++ BitVec.ofBool e.opc.loaded ++ BitVec.ofBool e.k.loaded

/-- The `irq` output, `CTRL.IRQ_EN & STATUS.DONE`, a level (R227). -/
def Engine.irq (e : Engine) : Bool := e.irqEn && e.done

/-- A host write to STATUS acts on the W1C bits only (R35): bit 1 clears DONE, bit 2 clears ERR and ERRCODE, bit 3
clears WERR. This is the acknowledgement, the engine's "trap return" (R228). -/
def Engine.statusWrite (e : Engine) (v : Word) : Engine :=
  { e with
    done := e.done && !v[1]
    err := e.err && !v[2]
    errcode := if v[2] then .none else e.errcode
    werr := e.werr && !v[3] }

/-- What an accept does to the engine (R200): PENDING and BUSY, with DONE, ERR and ERRCODE cleared; `slots` host
transactions will be performed before the completion. -/
def Engine.accept (e : Engine) (word : Word) (slots : Nat) : Engine :=
  { e with phase := .busy word slots, done := false, err := false, errcode := .none }

/-- The completion report, the engine's "trap entry" (R201, R226): IDLE, DONE, ERR and ERRCODE, nothing else. -/
def Engine.report (e : Engine) (code : ErrCode) : Engine :=
  { e with phase := .idle, done := true, err := code != .none, errcode := code }

end Sys2Proof.Machine
end

