-- ==== Sys2Proof/Machine/Ops.lean ====
section
/-! DEFINITION. The named operations: register reads and writes, host accesses, accept, completion, reset, the host's
record of a read, and the choice of who steps next (20_memory.md R60 to R76; 44_maintenance.md R200 to R202;
60_exceptions.md R226; 70_reset_and_hazards.md R260 to R276). -/

namespace Sys2Proof.Machine

/-! ### Registers -/

/-- The value 10_state.md gives the register, as a read in IDLE returns it (R65, R70, R72). K, OPC and CMD read 0. -/
def Engine.readReg (e : Engine) : Reg → Word
  | .id => idValue
  | .version => versionValue
  | .ctrl => (BitVec.ofBool e.irqEn).setWidth 32
  | .cmd => 0
  | .status => statusWord e
  | .loaded => loadedWord e
  | .mcc => e.mcc.setWidth 32
  | .mnc => e.mnc.setWidth 32
  | .resLen => e.resLen.setWidth 32
  | .variant => e.variant.setWidth 32
  | .bcdCtrl => 0#20 ++ e.fill ++ 0#3 ++ e.ndig
  | .data .k _ => 0
  | .data .opc _ => 0
  | .data .rand w => wordOf e.rand.bytes w
  | .data .autn w => wordOf e.autn.bytes w
  | .data .res w => wordOf e.res.bytes w
  | .data .ck w => wordOf e.ck.bytes w
  | .data .ik w => wordOf e.ik.bytes w
  | .data .resstar w => wordOf e.resstar w
  | .data .sqn w => wordOf e.sqn w
  | .data .maca w => wordOf e.maca w
  | .data .bcdText w => wordOf e.bcdText.bytes w
  | .data .bcdPacked w => wordOf e.bcdPacked.bytes w
  | .reserved => 0

/-- A host write in IDLE to a register other than CTRL, CMD and STATUS (R37 to R42, R69, R72): parameter registers keep
their own bits, tracked fields take a word, read-only and reserved ones ignore it. -/
def Engine.storeReg (e : Engine) (r : Reg) (v : Word) : Engine :=
  match r with
  | .mcc => { e with mcc := v.extractLsb' 0 16 }
  | .mnc => { e with mnc := v.extractLsb' 0 16 }
  | .resLen => { e with resLen := v.extractLsb' 0 5 }
  | .variant => { e with variant := v.extractLsb' 0 8 }
  | .bcdCtrl => { e with ndig := v.extractLsb' 0 5, fill := v.extractLsb' 8 4 }
  | .data .k w => { e with k := e.k.hostWrite w v }
  | .data .opc w => { e with opc := e.opc.hostWrite w v }
  | .data .rand w => { e with rand := e.rand.hostWrite w v }
  | .data .autn w => { e with autn := e.autn.hostWrite w v }
  | .data .res w => { e with res := e.res.hostWrite w v }
  | .data .ck w => { e with ck := e.ck.hostWrite w v }
  | .data .ik w => { e with ik := e.ik.hostWrite w v }
  | .data .bcdText w => { e with bcdText := e.bcdText.hostWrite w v }
  | .data .bcdPacked w => { e with bcdPacked := e.bcdPacked.hostWrite w v }
  | .data .resstar _ | .data .sqn _ | .data .maca _ => e
  | .id | .version | .ctrl | .cmd | .status | .loaded | .reserved => e

/-! ### Updates of the whole system -/

/-- The reset of the engine, by the `rst` input (R260) or by CTRL.SOFT_RESET (R261): one state, and a pending command
leaves nothing (R262). The host and its program are not the engine's. -/
def State.resetEngine (s : State) : State := { s with engine := .reset }

/-- `pc <- pc + 1` (R75). -/
def State.advance (s : State) : State := { s with pc := s.pc + 1 }

/-- Record the value a read returned (R75). -/
def State.record (s : State) (off : BitVec 8) (v : Word) : State :=
  { s with results := ⟨s.pc, off, v⟩ :: s.results }

/-- Accept a command word (R200). The delay to its completion is draw `s.draws` of CMD_DURATION, of which the accept's
own slot is the first (R275; log entry 1). -/
def State.accept (s : State) (word : Word) : State :=
  { s with engine := s.engine.accept word (Config.cmdDuration s.draws - 1), draws := s.draws + 1 }

/-- A host write to CTRL (R23 to R25): bit 1 resets the engine and the rest of the value is ignored; otherwise bit 0
is IRQ_EN. Honoured in every phase (R272). -/
def State.ctrlWrite (s : State) (v : Word) : State :=
  if v[1] then s.resetEngine else { s with engine := { s.engine with irqEn := v[0] } }

/-! ### Host accesses -/

/-- The accesses the window answers: 32 bits wide and aligned (R63). -/
def legalAccess (nbits : Nat) (off : BitVec 8) : Bool := nbits == 32 && off.toNat % 4 == 0

/-- `MemRead` of an aligned word (R65, R270). In the BUSY window the bits that `unspecifiedBits` names come from a free
value, one draw for each such read; nothing else changes. -/
def State.readReg (s : State) (r : Reg) : Word × State :=
  match s.engine.phase with
  | .idle => (s.engine.readReg r, s)
  | .busy pending _ =>
    let m := unspecifiedBits (decodeCmd pending) r
    if m = 0 then (s.engine.readReg r, s)
    else ((s.engine.readReg r &&& ~~~m) ||| (Config.freeRead s.draws &&& m), { s with draws := s.draws + 1 })

/-- `MemWrite` of an aligned word (R68, R271). CTRL and STATUS are honoured in every phase; while BUSY any other write
is dropped, and sets WERR if its register is writable; in IDLE a CMD write accepts a command. -/
def State.writeReg (s : State) (r : Reg) (v : Word) : State :=
  match r with
  | .ctrl => s.ctrlWrite v
  | .status => { s with engine := s.engine.statusWrite v }
  | r =>
    match s.engine.phase with
    | .busy _ _ => if regWritable r then { s with engine := { s.engine with werr := true } } else s
    | .idle => if r = .cmd then s.accept v else { s with engine := s.engine.storeReg r v }

/-- A host read of `nbits` bits at `off` (R63 to R65): BUS_ERROR, data 0 and no change where the access is not legal. -/
def busRead (nbits : Nat) (off : BitVec 8) (s : State) : BusReply :=
  if legalAccess nbits off then ⟨.ok, (s.readReg (regAt off)).1, (s.readReg (regAt off)).2⟩ else ⟨.busError, 0, s⟩

/-- A host write of `nbits` bits at `off` (R63, R64, R68). -/
def busWrite (nbits : Nat) (off : BitVec 8) (v : Word) (s : State) : BusReply :=
  if legalAccess nbits off then ⟨.ok, 0, s.writeReg (regAt off) v⟩ else ⟨.busError, 0, s⟩

/-- The host address of a window offset (R82). -/
def hostAddress (off : BitVec 8) : Nat := Config.base + off.toNat

/-- The window offset a host address selects, none outside the 256-byte window (R61, R82). -/
def windowOffset (addr : Nat) : Option (BitVec 8) :=
  if Config.base ≤ addr ∧ addr < Config.base + 256 then some (BitVec.ofNat 8 (addr - Config.base)) else none

/-! ### Completion -/

/-- A command's pseudocode that ends without a `raise`. -/
def CmdResult.ok (e : Engine) : CmdResult := ⟨e, .none⟩

/-- `raise Error(code)`: the writes made so far stay, nothing after is written (R12, R202). -/
def CmdResult.raise (e : Engine) (code : ErrCode) : CmdResult := ⟨e, code⟩

/-- The completion step (R201): the command's effects and the report, at once. It makes no host transaction, so the
host is as before. This is the one shared "taking an exception" of this hardware (R226). -/
def complete (r : CmdResult) (s : State) : Host.Outcome State Fault Refusal :=
  .next { s with engine := r.engine.report r.code }

/-! ### Who steps next -/

/-- The transaction at the program counter, none at the end of the program (R59, R266). -/
def State.fetch (s : State) : Option TxWord := s.program[s.pc]?

/-- The refusal of a program word the transcriber does not accept (30_encoding.md R96). -/
def refusalOf : DecodeError → Refusal
  | .kindReserved => .txKindReserved
  | .rdDataNonzero => .txRdDataNonzero

/-- The host's transaction `w`, or the transcriber's refusal of it. -/
def transactMove (w : TxWord) (s : State) : Move :=
  match decodeTx w with
  | .ok i => .run i s
  | .error e => .refuse (refusalOf e)

/-- One host-transaction slot of the BUSY window passes (R275). -/
def State.passSlot (s : State) : State :=
  match s.engine.phase with
  | .idle => s
  | .busy p n => { s with engine := { s.engine with phase := .busy p (n - 1) } }

/-- The next move with `rst` deasserted (R60, R74, R201, R266, R275). While BUSY the completion is taken when its delay
has run out or the program has ended; otherwise the host performs its next transaction; an IDLE engine with no
transaction left waits. -/
def liveMove (s : State) : Move :=
  match s.engine.phase with
  | .busy p 0 => .run (decodeCmd p) s
  | .busy p (_ + 1) =>
    match s.fetch with
    | some w => transactMove w s.passSlot
    | none => .run (decodeCmd p) s
  | .idle =>
    match s.fetch with
    | some w => transactMove w s
    | none => .wait s

/-- The next move. Where the `rst` input is asserted the engine is reset and the host makes no access (R260, HD7 of
R278; log entry 6). -/
def nextMove (s : State) : Move :=
  match s.rst with
  | [] => liveMove s
  | false :: rest => liveMove { s with rst := rest }
  | true :: rest => .hardReset { s with rst := rest }

end Sys2Proof.Machine
end

