-- ==== Sys2Proof/Machine/Sha256.lean ====
section
/-! DEFINITION. SHA-256 and HMAC-SHA-256 (43_kdf.md R160 to R164 and R169). -/

namespace Sys2Proof.Machine

/-! ### Words and padding (R160, R161) -/

/-- `be32(w)`: the 4-byte big-endian form of a word. -/
def be32 (w : Word) : List Byte := [lane w 0, lane w 1, lane w 2, lane w 3]

/-- `be64(n)`: the 8-byte big-endian form of a number below 2^64. -/
def be64 (n : Nat) : List Byte := be32 (BitVec.ofNat 32 (n / 2 ^ 32)) ++ be32 (BitVec.ofNat 32 n)

/-- `z = (55 - L) mod 64`, the number of zero bytes of the padding. -/
def padZeros (len : Nat) : Nat := (55 + 64 - len % 64) % 64

/-- `pad(M) = M ‖ 0x80 ‖ 0^z ‖ be64(8·L)`. -/
def pad (m : List Byte) : List Byte :=
  m ++ [0x80#8] ++ List.replicate (padZeros m.length) 0#8 ++ be64 (8 * m.length)

/-- A byte string as big-endian words. -/
def toWords : List Byte → List Word
  | b0 :: b1 :: b2 :: b3 :: rest => (b0 ++ b1 ++ b2 ++ b3) :: toWords rest
  | _ => []

/-- The first `n` blocks of 16 words. -/
def blocksOf : Nat → List Word → List (List Word)
  | 0, _ => []
  | n + 1, ws => ws.take 16 :: blocksOf n (ws.drop 16)

/-- `M(1)..M(N)` with `N = len(pad(M)) / 64`. -/
def messageBlocks (m : List Byte) : List (List Word) := blocksOf ((pad m).length / 64) (toWords (pad m))

/-! ### Constants (R162, R163) -/

/-- The eight hash words, which are also the working variables `a` to `h`. -/
structure HashState where
  a : Word
  b : Word
  c : Word
  d : Word
  e : Word
  f : Word
  g : Word
  h : Word
  deriving DecidableEq, Repr

/-- `H(0)` (R162). -/
def initialHash : HashState where
  a := 0x6a09e667
  b := 0xbb67ae85
  c := 0x3c6ef372
  d := 0xa54ff53a
  e := 0x510e527f
  f := 0x9b05688c
  g := 0x1f83d9ab
  h := 0x5be0cd19

/-- The table of R163, row by row. -/
def roundConstantRows : List (List Word) :=
  [[0x428a2f98, 0x71374491, 0xb5c0fbcf, 0xe9b5dba5, 0x3956c25b, 0x59f111f1, 0x923f82a4, 0xab1c5ed5],
   [0xd807aa98, 0x12835b01, 0x243185be, 0x550c7dc3, 0x72be5d74, 0x80deb1fe, 0x9bdc06a7, 0xc19bf174],
   [0xe49b69c1, 0xefbe4786, 0x0fc19dc6, 0x240ca1cc, 0x2de92c6f, 0x4a7484aa, 0x5cb0a9dc, 0x76f988da],
   [0x983e5152, 0xa831c66d, 0xb00327c8, 0xbf597fc7, 0xc6e00bf3, 0xd5a79147, 0x06ca6351, 0x14292967],
   [0x27b70a85, 0x2e1b2138, 0x4d2c6dfc, 0x53380d13, 0x650a7354, 0x766a0abb, 0x81c2c92e, 0x92722c85],
   [0xa2bfe8a1, 0xa81a664b, 0xc24b8b70, 0xc76c51a3, 0xd192e819, 0xd6990624, 0xf40e3585, 0x106aa070],
   [0x19a4c116, 0x1e376c08, 0x2748774c, 0x34b0bcb5, 0x391c0cb3, 0x4ed8aa4a, 0x5b9cca4f, 0x682e6ff3],
   [0x748f82ee, 0x78a5636f, 0x84c87814, 0x8cc70208, 0x90befffa, 0xa4506ceb, 0xbef9a3f7, 0xc67178f2]]

/-- `K0..K63` (R163). -/
def roundConstants : List Word := roundConstantRows.flatten

/-! ### Functions and compression (R164) -/

def shaCh (x y z : Word) : Word := (x &&& y) ^^^ (~~~x &&& z)
def shaMaj (x y z : Word) : Word := (x &&& y) ^^^ (x &&& z) ^^^ (y &&& z)

/-- The XOR of the rotations ROTR^n of a word, over the given `n` (R8). -/
def xorRotations (ns : List Nat) (x : Word) : Word := ns.foldl (fun acc n => acc ^^^ x.rotateRight n) 0

def bigSigma0 (x : Word) : Word := xorRotations [2, 13, 22] x
def bigSigma1 (x : Word) : Word := xorRotations [6, 11, 25] x
def smallSigma0 (x : Word) : Word := xorRotations [7, 18] x ^^^ (x >>> 3)
def smallSigma1 (x : Word) : Word := xorRotations [17, 19] x ^^^ (x >>> 10)

/-- Extend the schedule by `n` words; it is held newest first, so `W[t-2]` is entry 1, `W[t-7]` entry 6, `W[t-15]`
entry 14 and `W[t-16]` entry 15. -/
def extendSchedule : Nat → List Word → List Word
  | 0, w => w
  | n + 1, w =>
    extendSchedule n ((smallSigma1 (w.getD 1 0) + w.getD 6 0 + smallSigma0 (w.getD 14 0) + w.getD 15 0) :: w)

/-- `W[0..64)` of a block, oldest first. -/
def schedule (block : List Word) : List Word := (extendSchedule 48 block.reverse).reverse

/-- T1 of a round, with constant `k` and schedule word `w`. -/
def HashState.t1 (s : HashState) (k w : Word) : Word := s.h + bigSigma1 s.e + shaCh s.e s.f s.g + k + w

/-- T2 of a round. -/
def HashState.t2 (s : HashState) : Word := bigSigma0 s.a + shaMaj s.a s.b s.c

/-- One round: the working variables move down one place, `d` taking T1 and the new `a` being T1 + T2. -/
def shaRound (s : HashState) (k w : Word) : HashState :=
  { a := s.t1 k w + s.t2, b := s.a, c := s.b, d := s.c, e := s.d + s.t1 k w, f := s.e, g := s.f, h := s.g }

/-- The rounds, over the constants and the schedule side by side. -/
def shaRounds : HashState → List Word → List Word → HashState
  | s, k :: ks, w :: ws => shaRounds (shaRound s k w) ks ws
  | s, _, _ => s

/-- `H0+a, ..., H7+h`. -/
def HashState.add (s r : HashState) : HashState where
  a := s.a + r.a
  b := s.b + r.b
  c := s.c + r.c
  d := s.d + r.d
  e := s.e + r.e
  f := s.f + r.f
  g := s.g + r.g
  h := s.h + r.h

/-- The hash value after one more block. -/
def compress (s : HashState) (block : List Word) : HashState :=
  s.add (shaRounds s roundConstants (schedule block))

/-- The 32 digest bytes of a hash value. -/
def HashState.digest (s : HashState) : List Byte :=
  [s.a, s.b, s.c, s.d, s.e, s.f, s.g, s.h].flatMap be32

/-- `SHA256(M)` (R160, R164). -/
def sha256 (m : List Byte) : List Byte := ((messageBlocks m).foldl compress initialHash).digest

/-! ### HMAC (R169) -/

/-- `K0 = K' ‖ 0^(64 - len(K'))`, where a key longer than 64 bytes is hashed first. -/
def hmacKey (key : List Byte) : List Byte :=
  let k' := if 64 < key.length then sha256 key else key
  k' ++ List.replicate (64 - k'.length) 0#8

/-- `HMAC(Key, S) = SHA256(opad_key ‖ SHA256(ipad_key ‖ S))`. -/
def hmac (key msg : List Byte) : List Byte :=
  sha256 ((hmacKey key).map (· ^^^ 0x5C#8) ++ sha256 ((hmacKey key).map (· ^^^ 0x36#8) ++ msg))

end Sys2Proof.Machine
end

