-- ==== Sys2Proof/Machine/Kdf.lean ====
section
/-! DEFINITION. The KDF unit: the Annex A.4 string, RESSTAR_FN, and the meaning of KDF_RESSTAR (43_kdf.md R165 to
R172). -/

namespace Sys2Proof.Machine

/-- P0, "5G:mnc<3-digit>.mcc<3-digit>.3gppnetwork.org": MNC first, MCC second (R165). -/
def servingNetwork (mcc mnc : Nat) : List Byte :=
  ascii ['5', 'G', ':', 'm', 'n', 'c'] ++ dec3 mnc ++ ascii ['.', 'm', 'c', 'c'] ++ dec3 mcc ++
    ascii ['.', '3', 'g', 'p', 'p', 'n', 'e', 't', 'w', 'o', 'r', 'k', '.', 'o', 'r', 'g']

/-- `S = 0x6B ‖ P0 ‖ L0 ‖ RAND ‖ L1 ‖ RES ‖ L2`, each L the length of the parameter before it (R166, R167). -/
def kdfString (mcc mnc : Nat) (rand res : List Byte) : List Byte :=
  [0x6B#8] ++ servingNetwork mcc mnc ++ u16be (servingNetwork mcc mnc).length ++ rand ++ u16be rand.length ++
    res ++ u16be res.length

/-- `HMAC(CK ‖ IK, S)`, 32 bytes (R168, R171). -/
def kdfOutput (mcc mnc : Nat) (rand res ck ik : List Byte) : List Byte :=
  hmac (ck ++ ik) (kdfString mcc mnc rand res)

/-- RESSTAR_FN: the LAST 16 bytes, `O[16..32)` (R171). -/
def resstarFn (mcc mnc : BitVec 16) (rand : ByteStr 16) (res : List Byte) (ck ik : ByteStr 16) : ByteStr 16 :=
  let o := kdfOutput mcc.toNat mnc.toNat rand.toList res ck.toList ik.toList
  Vector.ofFn fun j => o.getD (16 + j.val) 0

/-- `x[MCC] > 999 or x[MNC] > 999` (R170). -/
def Engine.plmnBad (e : Engine) : Bool := 999 < e.mcc.toNat || 999 < e.mnc.toNat

/-- RESSTAR and its valid flag cleared, the head of every RES\* writer (R172; 42_aka.md R137). -/
def Engine.clearResstar (e : Engine) : Engine := { e with resstar := zeroBytes 16, resstarValid := false }

/-- The derivation from the engine's own MCC, MNC, RAND, `RES[0..RES_LEN)`, CK and IK (R171, R172). -/
def Engine.deriveResstar (e : Engine) : Engine :=
  { e with
    resstar := resstarFn e.mcc e.mnc e.rand.bytes (e.res.bytes.toList.take e.resLen.toNat) e.ck.bytes e.ik.bytes
    resstarValid := true }

/-- The pseudocode of KDF_RESSTAR (R172). -/
def kdfResstarRun (e : Engine) : CmdResult :=
  let e0 := e.clearResstar
  if !(e.rand.loaded && e.res.loaded && e.ck.loaded && e.ik.loaded) then .raise e0 .missingInput
  else if e.resLen.toNat < 1 || 16 < e.resLen.toNat then .raise e0 .badResLen
  else if e.plmnBad then .raise e0 .badPlmn
  else .ok e0.deriveResstar

/-- KDF_RESSTAR: its completion step (R172, 44_maintenance.md R201). -/
def execKdfResstar (s : State) : Host.Outcome State Fault Refusal := complete (kdfResstarRun s.engine) s

end Sys2Proof.Machine
end

