-- ==== Sys2Proof/Machine/Aka.lean ====
section
/-! DEFINITION. The AKA unit: AUTN decomposition, the two port calls, SQN recovery, MAC comparison, the gate of the
KDF, and the meanings of AKA_VERIFY and AKA_AUTH (42_aka.md R130 to R140). -/

namespace Sys2Proof.Machine

/-- The clears at the head of AKA_CORE (R137). -/
def Engine.akaClear (e : Engine) : Engine :=
  { e.clearResstar with sqn := zeroBytes 6, sqnValid := false, maca := zeroBytes 8, macOk := false }

/-- K, OPC, RAND and AUTN are loaded (R134). -/
def Engine.akaLoaded (e : Engine) : Bool := e.k.loaded && e.opc.loaded && e.rand.loaded && e.autn.loaded

/-- WIPE: CK, IK and RES cleared and unloaded, RES_LEN 0 (R137). -/
def Engine.wipe (e : Engine) : Engine :=
  { e with ck := .cleared 16 4, ik := .cleared 16 4, res := .cleared 16 4, resLen := 0 }

/-- The VECTORS call's arguments from the registers (R131, R135). -/
def Engine.callVectors (port : VectorsPort) (e : Engine) : VectorsReply :=
  port e.k.bytes e.opc.bytes e.rand.bytes e.variant (amfOf e.autn.bytes)

/-- The F1 call's arguments from the registers and the recovered SQN (R132). -/
def Engine.callF1 (port : F1Port) (e : Engine) (sqn : ByteStr 6) : F1Reply :=
  port e.k.bytes e.opc.bytes e.rand.bytes e.variant (amfOf e.autn.bytes) sqn

/-- `SQN = SQNAK ⊕ ak` (R136). -/
def Engine.recoverSqn (e : Engine) (ak : ByteStr 6) : ByteStr 6 := xorBytes (sqnakOf e.autn.bytes) ak

/-- The writes of a MAC match: MAC_OK, and CK, IK, RES and RES_LEN from the VECTORS reply (R137). -/
def Engine.installVectors (e : Engine) (v : VectorsReply) : Engine :=
  { e with
    macOk := true
    ck := .full v.ck
    ik := .full v.ik
    res := .full (keepFirst v.res v.resLen.toNat)
    resLen := v.resLen }

/-- AKA_CORE(auth) of R137, over the port functions it calls; `auth` is false for AKA_VERIFY and true for AKA_AUTH. -/
def akaCore (vectors : VectorsPort) (f1 : F1Port) (auth : Bool) (e : Engine) : CmdResult :=
  let e0 := e.akaClear
  if !e.akaLoaded then .raise e0 .missingInput
  else if auth && e.plmnBad then .raise e0 .badPlmn
  else
    let v := e.callVectors vectors
    if v.resLen.toNat < 1 || 16 < v.resLen.toNat then .raise e0.wipe .badResLen
    else
      let sqn := e.recoverSqn v.ak
      let maca := (e.callF1 f1 sqn).maca
      let e1 := { e0 with sqn := sqn, sqnValid := true, maca := maca }
      if maca ≠ macnOf e.autn.bytes then .raise e1.wipe .authFailure
      else if auth then .ok (e1.installVectors v).deriveResstar
      else .ok (e1.installVectors v)

/-- AKA_VERIFY: AKA_CORE(false) with the configured port (R137). -/
def execAkaVerify (s : State) : Host.Outcome State Fault Refusal :=
  complete (akaCore Config.milVectors Config.milF1 false s.engine) s

/-- AKA_AUTH: AKA_CORE(true) with the configured port (R138). -/
def execAkaAuth (s : State) : Host.Outcome State Fault Refusal :=
  complete (akaCore Config.milVectors Config.milF1 true s.engine) s

end Sys2Proof.Machine
end

