-- ==== Sys2Proof/Machine/Bcd.lean ====
section
/-! DEFINITION. The BCD unit: the packing law and the meanings of BCD_ENC and BCD_DEC (41_bcd.md R110 to R115). -/

namespace Sys2Proof.Machine

/-- The first `n` characters are all hexadecimal digits (R112). -/
def digitsValid (t : ByteStr 16) (n : Nat) : Bool := (List.range n).all fun i => (hexval (byteAt t i)).isSome

/-- `hexval(T[i])` of a character already checked. -/
def digitAt (t : ByteStr 16) (i : Nat) : BitVec 4 := (hexval (byteAt t i)).getD 0

/-- The packing law (R111, R112): byte `k` is `(d[2k+1] << 4) | d[2k]`, with `fill` for the missing digit of an odd
`n`, and 0 from byte `ceil(n/2)` on. -/
def packDigits (t : ByteStr 16) (n : Nat) (fill : BitVec 4) : ByteStr 8 :=
  Vector.ofFn fun k =>
    if 2 * k.val < n then
      (if 2 * k.val + 1 < n then digitAt t (2 * k.val + 1) else fill) ++ digitAt t (2 * k.val)
    else 0

/-- Nibble `i` of packed BCD: the low nibble of a byte is the earlier digit (R113). -/
def nibbleAt (p : ByteStr 8) (i : Nat) : BitVec 4 :=
  if i % 2 = 0 then (byteAt p (i / 2)).extractLsb' 0 4 else (byteAt p (i / 2)).extractLsb' 4 4

/-- The first `n` digits as lower-case characters, 0x00 after them (R113). -/
def unpackDigits (p : ByteStr 8) (n : Nat) : ByteStr 16 :=
  Vector.ofFn fun i => if i.val < n then hexchar (nibbleAt p i.val) else 0

/-- The pseudocode of BCD_ENC (R112). -/
def bcdEncRun (e : Engine) : CmdResult :=
  if !e.bcdText.loaded then .raise e .missingInput
  else if 16 < e.ndig.toNat then .raise e .badBcdLen
  else if !digitsValid e.bcdText.bytes e.ndig.toNat then .raise e .badDigit
  else .ok { e with bcdPacked := .full (packDigits e.bcdText.bytes e.ndig.toNat e.fill) }

/-- The pseudocode of BCD_DEC (R113). -/
def bcdDecRun (e : Engine) : CmdResult :=
  if !e.bcdPacked.loaded then .raise e .missingInput
  else if 16 < e.ndig.toNat then .raise e .badBcdLen
  else .ok { e with bcdText := .full (unpackDigits e.bcdPacked.bytes e.ndig.toNat) }

/-- BCD_ENC: its completion step (R112, 44_maintenance.md R201). -/
def execBcdEnc (s : State) : Host.Outcome State Fault Refusal := complete (bcdEncRun s.engine) s

/-- BCD_DEC: its completion step (R113, 44_maintenance.md R201). -/
def execBcdDec (s : State) : Host.Outcome State Fault Refusal := complete (bcdDecRun s.engine) s

end Sys2Proof.Machine
end

