-- ==== Sys2Proof/Machine/HostTx.lean ====
section
/-! DEFINITION. The host transactions RD, WR and POLL (20_memory.md R75, R76). -/

namespace Sys2Proof.Machine

/-- RD off: a 32-bit read, its value recorded, `pc + 1`; a BUS_ERROR is a fault of the host program (R64, R75). -/
def execRd (off : BitVec 8) (s : State) : Host.Outcome State Fault Refusal :=
  let r := busRead 32 off s
  match r.resp with
  | .ok => .next (r.state.record off r.data).advance
  | .busError => .fault (.busError off)

/-- WR off, v: a 32-bit write, then `pc + 1` (R75). -/
def execWr (off : BitVec 8) (value : Word) (s : State) : Host.Outcome State Fault Refusal :=
  let r := busWrite 32 off value s
  match r.resp with
  | .ok => .next r.state.advance
  | .busError => .fault (.busError off)

/-- POLL off, m: one RD transaction; `pc + 1` if the bits `m` selects are all 0, else the same POLL runs again (R76). -/
def execPoll (off : BitVec 8) (mask : Word) (s : State) : Host.Outcome State Fault Refusal :=
  let r := busRead 32 off s
  match r.resp with
  | .ok =>
    let s' := r.state.record off r.data
    .next (if r.data &&& mask = 0 then s'.advance else s')
  | .busError => .fault (.busError off)

end Sys2Proof.Machine
end

