-- ==== Sys2Proof/Machine/Maintenance.lean ====
section
/-! DEFINITION. ZEROIZE and the illegal command word (44_maintenance.md R204, R205). -/

namespace Sys2Proof.Machine

/-- The pseudocode of ZEROIZE (R205): every data field, mask and valid flag and RES_LEN; MCC, MNC, VARIANT, BCD_CTRL,
CTRL and WERR are kept. -/
def zeroizeRun (e : Engine) : CmdResult :=
  .ok { e with
    k := .cleared 16 4
    opc := .cleared 16 4
    rand := .cleared 16 4
    autn := .cleared 16 4
    res := .cleared 16 4
    ck := .cleared 16 4
    ik := .cleared 16 4
    bcdText := .cleared 16 4
    bcdPacked := .cleared 8 2
    resstar := zeroBytes 16
    sqn := zeroBytes 6
    maca := zeroBytes 8
    resLen := 0
    resstarValid := false
    sqnValid := false
    macOk := false }

/-- The pseudocode of an illegal word: `raise Error(ILLEGAL_CMD)` (R204). -/
def illegalRun (e : Engine) : CmdResult := .raise e .illegalCmd

/-- ZEROIZE: its completion step. -/
def execZeroize (s : State) : Host.Outcome State Fault Refusal := complete (zeroizeRun s.engine) s

/-- An illegal command word: its completion step, whatever the word. -/
def execIllegal (_word : Word) (s : State) : Host.Outcome State Fault Refusal := complete (illegalRun s.engine) s

end Sys2Proof.Machine
end

