-- ==== Sys2Proof/Machine/Dispatch.lean ====
section
/-! DEFINITION. One arm per instruction. -/

namespace Sys2Proof.Machine

def exec (i : Instr) (s : State) : Host.Outcome State Fault Refusal :=
  match i with
  | .kdfResstar => Sys2Proof.Machine.execKdfResstar s
  | .akaVerify => Sys2Proof.Machine.execAkaVerify s
  | .akaAuth => Sys2Proof.Machine.execAkaAuth s
  | .bcdEnc => Sys2Proof.Machine.execBcdEnc s
  | .bcdDec => Sys2Proof.Machine.execBcdDec s
  | .zeroize => Sys2Proof.Machine.execZeroize s
  | .illegal word => Sys2Proof.Machine.execIllegal word s
  | .rd off => Sys2Proof.Machine.execRd off s
  | .wr off value => Sys2Proof.Machine.execWr off value s
  | .poll off mask => Sys2Proof.Machine.execPoll off mask s

end Sys2Proof.Machine
end

