-- ==== Sys2Proof/Machine/Step.lean ====
section
/-! DEFINITION. One step of the whole system, and the placing of a word where the next step fetches. -/

namespace Sys2Proof.Machine

/-- One step: the move `nextMove` chooses is made (20_memory.md R60, R74). -/
def step (s : State) : Host.Outcome State Fault Refusal :=
  match nextMove s with
  | .hardReset s' => .next s'.resetEngine
  | .run i s' => exec i s'
  | .refuse r => .refused r
  | .wait s' => .next s'

/-- A command word becomes the pending one, its completion due; a transaction becomes the program word at the counter,
with a completion that is due held back one slot. The `rst` input is deasserted (log entries 7 and 14). -/
def State.withFetchWord (s : State) (nbits w : Nat) : State :=
  match rawOfNat nbits w with
  | .cmd32 word => { s with rst := [], engine := { s.engine with phase := .busy word 0 } }
  | .hosttx word =>
    { s with
      rst := []
      engine := { s.engine with
        phase := match s.engine.phase with
          | .busy p 0 => .busy p 1
          | .busy p (n + 1) => .busy p (n + 1)
          | .idle => .idle }
      program := s.program.take s.pc ++ List.replicate (s.pc - s.program.length) 0 ++ word :: s.program.drop (s.pc + 1) }

end Sys2Proof.Machine
end

