-- ==== Sys2Proof/Machine/HostProgram.lean ====
section
/-! DEFINITION. Host programs: the pseudo-instructions, the transcriber, and the text a program is written in
(30_encoding.md R96 to R99; log entry 12 for what the text leaves open). -/

namespace Sys2Proof.Machine

/-! ### Pseudo-instructions (R98) -/

/-- Offset of CMD, CTRL and STATUS (10_state.md R20). -/
def ctrlOff : BitVec 8 := 0x08
def cmdOff : BitVec 8 := 0x0C
def statusOff : BitVec 8 := 0x10

/-- The word `EXEC` writes to CMD for a mnemonic (R91, R99); the mnemonics are those of the six commands. -/
def commandWord (c : Instr) : Option Word :=
  if c.isCommand then
    match encode c with
    | .cmd32 w => some w
    | .hosttx _ => none
  else none

/-- Word `w` of a byte string, zero-padded on the right (R98; 20_memory.md R67). -/
def packWord (b : List Byte) (w : Nat) : Word :=
  b.getD (4 * w) 0 ++ b.getD (4 * w + 1) 0 ++ b.getD (4 * w + 2) 0 ++ b.getD (4 * w + 3) 0

/-- `LOAD`: one WR per word of the field, in increasing word order (R98). -/
def expandLoad (f : Field) (b : List Byte) : List Instr :=
  (List.range (fieldWords f)).map fun w => .wr (BitVec.ofNat 8 (fieldBase f + 4 * w)) (packWord b w)

/-- The transactions a line stands for (R97, R98), none where it cannot be transcribed. -/
def expandLine : Line → Option (List Instr)
  | .tx i => if i.isCmdWord then none else some [i]
  | .exec c => (commandWord c).map fun w => [.wr cmdOff w]
  | .wait => some [.poll statusOff 0x00000001]
  | .load f b => if b.length ≤ fieldBytes f then some (expandLoad f b) else none
  | .ack => some [.wr statusOff 0x0000000E]
  | .srst => some [.wr ctrlOff 0x00000002]

/-- The HOSTTX word of a transaction (R96). -/
def encodeTx (i : Instr) : Option TxWord :=
  match encode i with
  | .hosttx w => some w
  | .cmd32 _ => none

/-- The program a list of lines stands for: every line expanded, every transaction transcribed. -/
def transcribe : List Line → Option (List TxWord)
  | [] => some []
  | l :: ls => do
    let is ← expandLine l
    let ws ← is.mapM encodeTx
    let rest ← transcribe ls
    return ws ++ rest

/-- What the transcriber accepts as a program: words none of which it refuses (R96, HD10 of R278). -/
def programAccepted (p : List TxWord) : Bool :=
  p.all fun w => match decodeTx w with
    | .ok _ => true
    | .error _ => false

/-- Load a host program from outside the machine: the counter starts at 0 (10_state.md R59). -/
def State.loadProgram (s : State) (p : List TxWord) : State := { s with program := p, pc := 0, results := [] }

/-! ### The text of a program (R97) -/

/-- Split a text at the characters `p` picks out. -/
def splitAtChars (p : Char → Bool) : List Char → List (List Char)
  | [] => [[]]
  | c :: cs =>
    match splitAtChars p cs with
    | [] => [[]]
    | t :: ts => if p c then [] :: t :: ts else (c :: t) :: ts

/-- The words of a line: what stands before `;`, split at blanks and commas, up to a claimed result `->`. -/
def lineTokens (l : List Char) : List (List Char) :=
  ((splitAtChars (fun c => c == ' ' || c == '\t' || c == ',') (l.takeWhile (· != ';'))).filter
    fun t => !t.isEmpty).takeWhile (· != "->".toList)

/-- One digit in the given base. -/
def digitIn (base : Nat) (c : Char) : Option Nat :=
  if c.toNat < 128 then
    match hexval (BitVec.ofNat 8 c.toNat) with
    | some d => if d.toNat < base then some d.toNat else none
    | none => none
  else none

/-- Digits in the given base, the first the most significant. -/
def digitsIn (base acc : Nat) : List Char → Option Nat
  | [] => some acc
  | c :: cs => (digitIn base c).bind fun d => digitsIn base (acc * base + d) cs

/-- A number: hexadecimal with `0x`, or decimal (R97). -/
def parseNumber : List Char → Option Nat
  | [] => none
  | '0' :: 'x' :: d :: ds => digitsIn 16 0 (d :: ds)
  | c :: cs => digitsIn 10 0 (c :: cs)

/-- The byte-array fields by name (R20). -/
def parseField (t : List Char) : Option Field :=
  (([("K", .k), ("OPC", .opc), ("RAND", .rand), ("AUTN", .autn), ("RES", .res), ("CK", .ck), ("IK", .ik),
    ("RESSTAR", .resstar), ("SQN", .sqn), ("MACA", .maca), ("BCD_TEXT", .bcdText), ("BCD_PACKED", .bcdPacked)] :
    List (String × Field)).find? fun r => r.1.toList == t).map (·.2)

/-- The single-word registers by name, with their offsets (R20). -/
def parseSingle (t : List Char) : Option Nat :=
  (([("ID", 0x000), ("VERSION", 0x004), ("CTRL", 0x008), ("CMD", 0x00C), ("STATUS", 0x010), ("LOADED", 0x014),
    ("MCC", 0x018), ("MNC", 0x01C), ("RES_LEN", 0x020), ("VARIANT", 0x024), ("BCD_CTRL", 0x028)] :
    List (String × Nat)).find? fun r => r.1.toList == t).map (·.2)

/-- The mnemonics of R91. -/
def parseMnemonic (t : List Char) : Option Instr :=
  (([("KDF_RESSTAR", .kdfResstar), ("AKA_VERIFY", .akaVerify), ("AKA_AUTH", .akaAuth), ("BCD_ENC", .bcdEnc),
    ("BCD_DEC", .bcdDec), ("ZEROIZE", .zeroize)] : List (String × Instr)).find? fun r => r.1.toList == t).map (·.2)

/-- `<off>`: a number, a register name, or `NAME+k` for word `k/4` of a multi-word register (R97). -/
def parseOff (t : List Char) : Option (BitVec 8) :=
  let n : Option Nat := match splitAtChars (· == '+') t with
    | [a] => match parseNumber a with
      | some v => some v
      | none => match parseSingle a with
        | some v => some v
        | none => (parseField a).map fieldBase
    | [a, k] => do
      let f ← parseField a
      let k ← parseNumber k
      if k % 4 = 0 ∧ k / 4 < fieldWords f then some (fieldBase f + k) else none
    | _ => none
  n.bind fun v => if v < 256 then some (BitVec.ofNat 8 v) else none

/-- `<value>` and `<mask>`: a number of 32 bits (R97). -/
def parseWord (t : List Char) : Option Word :=
  (parseNumber t).bind fun v => if v < 2 ^ 32 then some (BitVec.ofNat 32 v) else none

/-- A hex string: two digits a byte, first byte first (00_scope.md R9). -/
def parseHex : List Char → Option (List Byte)
  | [] => some []
  | [_] => none
  | a :: b :: cs => do
    let h ← digitIn 16 a
    let l ← digitIn 16 b
    let rest ← parseHex cs
    return BitVec.ofNat 8 (16 * h + l) :: rest

/-- One line; an empty one gives no transaction (R97, R98). A LOAD line without a hex string is refused, though the term
`Line.load f []` stands for a field of zeros (DESIGN CHOICE, log entry 12). -/
def parseLine (l : List Char) : Option (List Line) :=
  match lineTokens l with
  | [] => some []
  | [op] =>
    if op == "WAIT".toList then some [.wait]
    else if op == "ACK".toList then some [.ack]
    else if op == "SRST".toList then some [.srst]
    else none
  | [op, a] =>
    if op == "RD".toList then (parseOff a).map fun o => [.tx (.rd o)]
    else if op == "EXEC".toList then (parseMnemonic a).map fun c => [.exec c]
    else none
  | [op, a, b] =>
    if op == "WR".toList then do return [.tx (.wr (← parseOff a) (← parseWord b))]
    else if op == "POLL".toList then do return [.tx (.poll (← parseOff a) (← parseWord b))]
    else if op == "LOAD".toList then do return [.load (← parseField a) (← parseHex b)]
    else none
  | _ => none

/-- The program a text stands for, none where a line cannot be read. -/
def assemble (src : String) : Option (List TxWord) := do
  let lines ← (splitAtChars (· == '\n') src.toList).mapM parseLine
  transcribe lines.flatten

end Sys2Proof.Machine
end

