-- ==== Sys2Proof/Safety.lean ====
section
/-! DEFINITION. The terms claims are stated in: the invariants a run keeps, the gate on RES\*, what an observer without
the keys sees, and uniform views of the data fields. -/

namespace Sys2Proof.Machine

/-! ### Uniform views of the fields -/

/-- The bytes of a field, in order (10_state.md R43 to R54). -/
def Engine.bytesOf (e : Engine) : Field → List Byte
  | .k => e.k.bytes.toList
  | .opc => e.opc.bytes.toList
  | .rand => e.rand.bytes.toList
  | .autn => e.autn.bytes.toList
  | .res => e.res.bytes.toList
  | .ck => e.ck.bytes.toList
  | .ik => e.ik.bytes.toList
  | .resstar => e.resstar.toList
  | .sqn => e.sqn.toList
  | .maca => e.maca.toList
  | .bcdText => e.bcdText.bytes.toList
  | .bcdPacked => e.bcdPacked.bytes.toList

/-- Bit `w` of `WMASK[F]`; a field that is not tracked has none (R57). -/
def Engine.maskBit (e : Engine) (f : Field) (w : Nat) : Bool :=
  match f with
  | .k => e.k.mask.getLsbD w
  | .opc => e.opc.mask.getLsbD w
  | .rand => e.rand.mask.getLsbD w
  | .autn => e.autn.mask.getLsbD w
  | .res => e.res.mask.getLsbD w
  | .ck => e.ck.mask.getLsbD w
  | .ik => e.ik.mask.getLsbD w
  | .resstar | .sqn | .maca => false
  | .bcdText => e.bcdText.mask.getLsbD w
  | .bcdPacked => e.bcdPacked.mask.getLsbD w

/-- The engine's state outside the byte-array fields and their masks. -/
structure Scalars where
  irqEn : Bool
  phase : Phase
  done : Bool
  err : Bool
  errcode : ErrCode
  werr : Bool
  resstarValid : Bool
  sqnValid : Bool
  macOk : Bool
  mcc : BitVec 16
  mnc : BitVec 16
  resLen : BitVec 5
  variant : BitVec 8
  ndig : BitVec 5
  fill : BitVec 4
  deriving DecidableEq, Repr

/-- The scalar part of an engine state (10_state.md R23 to R42, R58). -/
def Engine.scalars (e : Engine) : Scalars :=
  ⟨e.irqEn, e.phase, e.done, e.err, e.errcode, e.werr, e.resstarValid, e.sqnValid, e.macOk, e.mcc, e.mnc, e.resLen,
    e.variant, e.ndig, e.fill⟩

/-- The offset of word `w` of a field (R66). -/
def wordOff (f : Field) (w : Nat) : BitVec 8 := BitVec.ofNat 8 (fieldBase f + 4 * w)

/-! ### The invariant of a run -/

/-- A word never written since the field was last cleared is 0 (R57, R69): no command computes on bytes nobody
supplied. -/
def Tracked.Wf {n m : Nat} (f : Tracked n m) : Prop := ∀ w < m, f.mask.getLsbD w = false → wordOf f.bytes w = 0

/-- What holds of the engine in every run. -/
structure Engine.Inv (e : Engine) : Prop where
  /-- Inside the BUSY window DONE, ERR and ERRCODE are 0 (70_reset_and_hazards.md R270). -/
  busyQuiet : e.isBusy = true → e.done = false ∧ e.err = false ∧ e.errcode = .none
  /-- ERR and ERRCODE agree (R226, 10_state.md R29). -/
  errCode : e.err = (e.errcode != .none)
  /-- RESSTAR is `0^16` unless it is valid (R50, R31). -/
  resstarZero : e.resstarValid = false → e.resstar = zeroBytes 16
  /-- SQN and MACA are 0 unless SQN is valid (R51, R52, R32). -/
  sqnZero : e.sqnValid = false → e.sqn = zeroBytes 6 ∧ e.maca = zeroBytes 8
  /-- A MAC match presupposes a recovered SQN (42_aka.md R137). -/
  macSqn : e.macOk = true → e.sqnValid = true
  kWf : e.k.Wf
  opcWf : e.opc.Wf
  randWf : e.rand.Wf
  autnWf : e.autn.Wf
  resWf : e.res.Wf
  ckWf : e.ck.Wf
  ikWf : e.ik.Wf
  bcdTextWf : e.bcdText.Wf
  bcdPackedWf : e.bcdPacked.Wf

/-- What holds of the system in every run: the engine's invariant, and `0 ≤ pc ≤ n` (10_state.md R59). -/
structure State.Inv (s : State) : Prop where
  engine : s.engine.Inv
  pcBound : s.pc ≤ s.program.length

/-! ### The gate on RES\* (42_aka.md R140) -/

/-- The RES\* writers: the commands that clear RESSTAR_VALID (R31, R140). -/
def writesResstar : Instr → Bool
  | .kdfResstar | .akaVerify | .akaAuth | .zeroize => true
  | .bcdEnc | .bcdDec | .illegal _ | .rd _ | .wr _ _ | .poll _ _ => false

/-- A transaction that soft-resets the engine (10_state.md R24). -/
def isSoftReset : Instr → Bool
  | .wr off v => off == 0x08 && v[1]
  | .kdfResstar | .akaVerify | .akaAuth | .bcdEnc | .bcdDec | .zeroize | .illegal _ | .rd _ | .poll _ _ => false

/-- The last RES\* writer since reset and the code it completed with, after a step from `s` that led to `s'`, given the
one before the step. It is a history a claim keeps beside the run, not state of the machine. -/
def nextWriter (last : Option (Instr × ErrCode)) (s s' : State) : Option (Instr × ErrCode) :=
  match nextMove s with
  | .hardReset _ => none
  | .run i _ =>
    if writesResstar i then some (i, s'.engine.errcode) else if isSoftReset i then none else last
  | .refuse _ => last
  | .wait _ => last

/-- R140: a valid RES\* comes from a KDF_RESSTAR or AKA_AUTH that completed without error, and if from AKA_AUTH then
MAC_OK is 1. -/
def Gate (last : Option (Instr × ErrCode)) (s : State) : Prop :=
  s.engine.resstarValid = true →
    last = some (.kdfResstar, .none) ∨ (last = some (.akaAuth, .none) ∧ s.engine.macOk = true)

/-! ### What an observer without the keys sees (20_memory.md R81, 60_exceptions.md R230) -/

/-- The system with the bytes of K and OPC blanked; their masks stay, LOADED shows them. -/
def State.hideKeys (s : State) : State :=
  { s with engine := { s.engine with
      k := ⟨zeroBytes 16, s.engine.k.mask⟩, opc := ⟨zeroBytes 16, s.engine.opc.mask⟩ } }

/-- An outcome with the keys blanked. -/
def hideOutcome : Host.Outcome State Fault Refusal → Host.Outcome State Fault Refusal
  | .next s => .next s.hideKeys
  | .fault r => .fault r
  | .refused r => .refused r

/-- The move is a completion that calls the Milenage port with the keys. -/
def Move.callsPort : Move → Bool
  | .run .akaVerify _ | .run .akaAuth _ => true
  | .run .kdfResstar _ | .run .bcdEnc _ | .run .bcdDec _ | .run .zeroize _ | .run (.illegal _) _ => false
  | .run (.rd _) _ | .run (.wr _ _) _ | .run (.poll _ _) _ => false
  | .hardReset _ | .refuse _ | .wait _ => false

/-! ### Runs of transactions -/

/-- The transactions of a list, performed in order with no completion between them. -/
def runAll : List Instr → State → Host.Outcome State Fault Refusal
  | [], s => .next s
  | i :: is, s =>
    match exec i s with
    | .next s' => runAll is s'
    | .fault r => .fault r
    | .refused r => .refused r

end Sys2Proof.Machine
end

