-- ==== Sys2Proof/Certificates/Slice0/Obligations.lean ====
section
/-! DEFINITION. The statements about the RESKDF engine, for the provers. Each docstring names the rules it rests on. -/

open Sys2Proof Sys2Proof.Machine

/-! ### Encoding -/

/-- Decoding the encoding of any well-formed instruction gives it back (30_encoding.md R90, R91, R92, R96). -/
def Obligations.DecodeInvertsEncode : Prop :=
  ∀ i : Instr, i.wf = true → decode (encode i) = .ok i

/-- Every raw word the decoder accepts stands for one well-formed instruction, whose encoding is that word: no bit is
dropped (R91, R92, R96). -/
def Obligations.EncodeInvertsDecode : Prop :=
  ∀ (r : RawWord) (i : Instr), decode r = .ok i → i.wf = true ∧ encode i = r

/-- R92: a CMD word is illegal exactly where RSVD ≠ 0 or OPCODE is 0x00 or 0x07 to 0xFF, the six others decode to the
six commands; an illegal word is accepted like any other, and completes with ILLEGAL_CMD and no other write. -/
def Obligations.IllegalWordsAcceptedAndReported : Prop :=
  ∀ (w : Word) (s : State),
    (decodeCmd w = .illegal w ↔
      w.extractLsb' 8 24 ≠ 0 ∨ (w.extractLsb' 0 8).toNat = 0 ∨ 7 ≤ (w.extractLsb' 0 8).toNat) ∧
    (w.extractLsb' 8 24 = 0 →
      (w.extractLsb' 0 8 = 0x01 → decodeCmd w = .kdfResstar) ∧ (w.extractLsb' 0 8 = 0x02 → decodeCmd w = .akaVerify) ∧
      (w.extractLsb' 0 8 = 0x03 → decodeCmd w = .akaAuth) ∧ (w.extractLsb' 0 8 = 0x04 → decodeCmd w = .bcdEnc) ∧
      (w.extractLsb' 0 8 = 0x05 → decodeCmd w = .bcdDec) ∧ (w.extractLsb' 0 8 = 0x06 → decodeCmd w = .zeroize)) ∧
    (s.engine.phase = .idle →
      ∃ t n, exec (.wr 0x0C w) s = .next t ∧ t.engine.phase = .busy w n ∧ t.engine.isBusy = true) ∧
    exec (.illegal w) s =
      .next { s with engine := { s.engine with phase := .idle, done := true, err := true, errcode := .illegalCmd } }

/-- R96: what each HOSTTX word stands for, which words the transcriber refuses, and that a misaligned OFF is refused
only at run time, with BusError. -/
def Obligations.TranscriberReadsHosttx : Prop :=
  (∀ w : TxWord,
    (w.extractLsb' 40 2 = 0b00 → w.extractLsb' 0 32 = 0 → decodeTx w = .ok (.rd (w.extractLsb' 32 8))) ∧
    (w.extractLsb' 40 2 = 0b00 → w.extractLsb' 0 32 ≠ 0 → decodeTx w = .error .rdDataNonzero) ∧
    (w.extractLsb' 40 2 = 0b01 → decodeTx w = .ok (.wr (w.extractLsb' 32 8) (w.extractLsb' 0 32))) ∧
    (w.extractLsb' 40 2 = 0b10 → decodeTx w = .ok (.poll (w.extractLsb' 32 8) (w.extractLsb' 0 32))) ∧
    (w.extractLsb' 40 2 = 0b11 → decodeTx w = .error .kindReserved)) ∧
  (∀ (s : State) (off : BitVec 8) (v : Word), off.toNat % 4 ≠ 0 →
    exec (.rd off) s = .fault (.busError off) ∧ exec (.wr off v) s = .fault (.busError off) ∧
    exec (.poll off v) s = .fault (.busError off))

/-- Words written out from R91 and R96 decode to the instructions they stand for. -/
def Obligations.SpecWordsDecode : Prop :=
  decodeTableWord 32 0x00000001 = some .kdfResstar ∧ decodeTableWord 32 0x00000003 = some .akaAuth ∧
  decodeTableWord 32 0x00000005 = some .bcdDec ∧ decodeTableWord 32 0x00000006 = some .zeroize ∧
  decodeTableWord 32 0x00000107 = some (.illegal 0x00000107) ∧ decodeTableWord 48 0x0a000000000 = some (.rd 0xA0) ∧
  decodeTableWord 48 0x130465b5ce8 = some (.wr 0x30 0x465b5ce8) ∧
  decodeTableWord 48 0x21000000001 = some (.poll 0x10 1)

/-- What each line of a program expands to (R97, R98): EXEC is a WR to CMD of the word of R91 and takes no other
mnemonic, WAIT is POLL STATUS, 0x1, ACK is WR STATUS, 0xE, SRST is WR CTRL, 0x2, LOAD is one WR per word of the field,
the missing bytes 0; a program is its lines' expansions in order, transcribed, and holds no word the transcriber refuses
(R96). (That LOAD takes an empty string and a read-only field is the model's choice, log entry 12.) -/
def Obligations.PseudoInstructionsExpandAsListed : Prop :=
  (∀ i : Instr, i.isCmdWord = false → expandLine (.tx i) = some [i]) ∧
  expandLine (.exec .kdfResstar) = some [.wr 0x0C 0x00000001] ∧
  expandLine (.exec .akaVerify) = some [.wr 0x0C 0x00000002] ∧
  expandLine (.exec .akaAuth) = some [.wr 0x0C 0x00000003] ∧
  expandLine (.exec .bcdEnc) = some [.wr 0x0C 0x00000004] ∧
  expandLine (.exec .bcdDec) = some [.wr 0x0C 0x00000005] ∧
  expandLine (.exec .zeroize) = some [.wr 0x0C 0x00000006] ∧
  (∀ c : Instr, c.isCommand = false → expandLine (.exec c) = none) ∧
  expandLine .wait = some [.poll 0x10 0x00000001] ∧
  expandLine .ack = some [.wr 0x10 0x0000000E] ∧
  expandLine .srst = some [.wr 0x08 0x00000002] ∧
  (∀ (f : Field) (b : List Byte), b.length ≤ fieldBytes f →
    ∃ is, expandLine (.load f b) = some is ∧ is.length = fieldWords f ∧
      ∀ w < fieldWords f, ∃ v : Word, is[w]? = some (.wr (wordOff f w) v) ∧
        ∀ i < 4, v.extractLsb' (24 - 8 * i) 8 = b.getD (4 * w + i) 0) ∧
  (∀ (ls : List Line) (p : List TxWord), transcribe ls = some p →
    (∃ iss, ls.mapM expandLine = some iss ∧ iss.flatten.mapM encodeTx = some p) ∧ programAccepted p = true)

/-- LOAD of a tracked field, performed in IDLE, leaves the string's bytes in the field, followed by zero bytes where the
string is shorter than the field, and the whole field loaded (R98; 20_memory.md R69; 10_state.md R57). (That the string
may be empty is the model's choice, log entry 12.) -/
def Obligations.LoadStoresPaddedString : Prop :=
  ∀ (s : State) (f : Field) (b : List Byte), fieldTracked f = true → b.length ≤ fieldBytes f →
    s.engine.phase = .idle →
    ∃ is t, expandLine (.load f b) = some is ∧ is.length = fieldWords f ∧ runAll is s = .next t ∧
      t.engine.bytesOf f = b ++ List.replicate (fieldBytes f - b.length) 0 ∧
      ∀ w < fieldWords f, t.engine.maskBit f w = true

/-! ### The step -/

/-- A word placed where the next step fetches is decoded and run by that step, one slot of a BUSY window having passed
(the placing is the model's, log entry 7). -/
def Obligations.StepRunsPlacedWord : Prop :=
  ∀ (s : State) (nbits w : Nat) (i : Instr), decodeTableWord nbits w = some i →
    step (s.withFetchWord nbits w) = exec i (s.withFetchWord nbits w).passSlot

/-- While BUSY with no slot left, with `rst` deasserted, the step is the pending command's meaning (44_maintenance.md
R201). -/
def Obligations.DueCompletionRunsPending : Prop :=
  ∀ (s : State) (p : Word), s.rst.head? ≠ some true → s.engine.phase = .busy p 0 →
    step s = exec (decodeCmd p) { s with rst := s.rst.tail }

/-- Otherwise, with `rst` deasserted, the step decodes the word at the counter and runs it, and a slot of the BUSY window
passes (20_memory.md R74, R75; the countdown of slots is the model's, log entry 1). A word the transcriber does not accept
is refused by name when the step reaches it: R96 refuses it earlier, at transcription, and the refusal in the step is the
model's choice (log entry 8). -/
def Obligations.StepRunsFetchedTransaction : Prop :=
  ∀ (s : State) (w : TxWord), s.rst.head? ≠ some true → s.program[s.pc]? = some w →
    (∀ i, decodeTx w = .ok i →
      (s.engine.phase = .idle → step s = exec i { s with rst := s.rst.tail }) ∧
      (∀ p n, s.engine.phase = .busy p (n + 1) →
        step s = exec i { s with rst := s.rst.tail, engine := { s.engine with phase := .busy p n } })) ∧
    (∀ e, decodeTx w = .error e → (∀ p, s.engine.phase ≠ .busy p 0) → step s = .refused (refusalOf e))

/-- At the end of the program a pending command still completes; an IDLE engine waits (70_reset_and_hazards.md R266,
R263; that a wait is a step which changes nothing is the model's choice, log entry 7). -/
def Obligations.EndOfProgramCompletesOrWaits : Prop :=
  ∀ s : State, s.rst.head? ≠ some true → s.program[s.pc]? = none →
    (∀ p n, s.engine.phase = .busy p n → step s = exec (decodeCmd p) { s with rst := s.rst.tail }) ∧
    (s.engine.phase = .idle → step s = .next { s with rst := s.rst.tail })

/-! ### Reset -/

/-- R260: a step with `rst` asserted puts the engine in the reset state, aborts a pending command and makes no host
access; the reset state has the table's values. (The input is a list of levels, log entry 6.) -/
def Obligations.HardwareResetState : Prop :=
  (∀ (s : State) (l : List Bool), s.rst = true :: l → step s = .next { s with engine := State.reset.engine, rst := l }) ∧
  (let e := State.reset.engine
   e.readReg .id = 0x52534B31 ∧ e.readReg .version = 0x00010000 ∧ e.irqEn = false ∧ statusWord e = 0 ∧
   e.phase = .idle ∧ e.mcc = 0 ∧ e.mnc = 0 ∧ e.resLen = 0 ∧ e.variant = 0 ∧ e.ndig = 0 ∧ e.fill = 0 ∧
   (∀ f : Field, e.bytesOf f = List.replicate (fieldBytes f) 0 ∧ ∀ w, e.maskBit f w = false) ∧
   loadedWord e = 0 ∧ e.irq = false)

/-- R261: a write to CTRL with bit 1 set is a soft reset in every phase; IRQ_EN, WERR and DONE end 0, the engine is
IDLE and no completion of the aborted command follows. -/
def Obligations.SoftResetAborts : Prop :=
  ∀ (s : State) (v : Word), v[1] = true →
    exec (.wr 0x08 v) s = .next { s with engine := State.reset.engine, pc := s.pc + 1 } ∧
    State.reset.engine.phase = .idle ∧ State.reset.engine.done = false ∧ State.reset.engine.irq = false ∧
    State.reset.engine.irqEn = false ∧ State.reset.engine.werr = false

/-! ### Control and status registers -/

/-- R21, R22: ID and VERSION read their constants in every phase, and writes to them do nothing, not even set WERR. -/
def Obligations.IdAndVersionAreConstant : Prop :=
  ∀ (s : State) (v : Word),
    exec (.rd 0x00) s = .next { s with pc := s.pc + 1, results := ⟨s.pc, 0x00, 0x52534B31⟩ :: s.results } ∧
    exec (.rd 0x04) s = .next { s with pc := s.pc + 1, results := ⟨s.pc, 0x04, 0x00010000⟩ :: s.results } ∧
    exec (.wr 0x00 v) s = .next { s with pc := s.pc + 1 } ∧ exec (.wr 0x04 v) s = .next { s with pc := s.pc + 1 }

/-- R23, R24, R25: in every phase a CTRL write with bit 1 clear sets IRQ_EN to bit 0 and nothing else, one with bit 1
set resets, and CTRL reads IRQ_EN in bit 0 and 0 above it. -/
def Obligations.CtrlWritesAndReads : Prop :=
  ∀ (s : State) (v : Word),
    (v[1] = false → exec (.wr 0x08 v) s = .next { s with engine := { s.engine with irqEn := v[0] }, pc := s.pc + 1 }) ∧
    (v[1] = true → exec (.wr 0x08 v) s = .next { s with engine := State.reset.engine, pc := s.pc + 1 }) ∧
    exec (.rd 0x08) s = .next { s with
      pc := s.pc + 1, results := ⟨s.pc, 0x08, if s.engine.irqEn then 1 else 0⟩ :: s.results } ∧
    (s.engine.irq = true ↔ s.engine.irqEn = true ∧ s.engine.done = true) ∧ State.reset.engine.irqEn = false

/-- R35: a STATUS write acts on the three W1C bits only, in every phase; a STATUS read shows each flag in its place and
0 in the reserved bits. The three valid flags are shown in IDLE (R270). -/
def Obligations.StatusWritesAndReads : Prop :=
  ∀ (s : State) (v : Word),
    exec (.wr 0x10 v) s = .next { s with pc := s.pc + 1, engine := { s.engine with
      done := if v[1] then false else s.engine.done
      err := if v[2] then false else s.engine.err
      errcode := if v[2] then .none else s.engine.errcode
      werr := if v[3] then false else s.engine.werr } } ∧
    ∃ (x : Word) (d : Nat),
      exec (.rd 0x10) s = .next { s with pc := s.pc + 1, results := ⟨s.pc, 0x10, x⟩ :: s.results, draws := d } ∧
      x[0] = s.engine.isBusy ∧ x[1] = s.engine.done ∧ x[2] = s.engine.err ∧ x[3] = s.engine.werr ∧ x[7] = false ∧
      x.extractLsb' 8 4 = s.engine.errcode.code ∧ x.extractLsb' 12 20 = 0 ∧
      (s.engine.phase = .idle →
        x[4] = s.engine.resstarValid ∧ x[5] = s.engine.sqnValid ∧ x[6] = s.engine.macOk)

/-- R36: in IDLE bit `t` of LOADED is `loaded(F)` of the field with tracked bit `t`, the bits above read 0 in every
phase, and writes are ignored; after reset it reads 0. -/
def Obligations.LoadedShowsWriteMasks : Prop :=
  ∀ s : State, State.reset.engine.readReg .loaded = 0 ∧
    (∀ v, exec (.wr 0x14 v) s = .next { s with pc := s.pc + 1 }) ∧
    ∃ (x : Word) (d : Nat),
      exec (.rd 0x14) s = .next { s with pc := s.pc + 1, results := ⟨s.pc, 0x14, x⟩ :: s.results, draws := d } ∧
      x.extractLsb' 9 23 = 0 ∧
      (s.engine.phase = .idle → ∀ (t : Nat) (f : Field),
        [Field.k, .opc, .rand, .autn, .res, .ck, .ik, .bcdText, .bcdPacked][t]? = some f →
        (x.getLsbD t = true ↔ ∀ w < fieldWords f, s.engine.maskBit f w = true))

/-! ### Reads -/

/-- In IDLE an RD at an aligned offset records the register's value and advances; nothing else changes. CMD reads 0 in
every phase, whatever is pending (20_memory.md R65, R75; 10_state.md R26). -/
def Obligations.IdleReadRecordsRegister : Prop :=
  (∀ (s : State) (off : BitVec 8), s.engine.phase = .idle → off.toNat % 4 = 0 →
    exec (.rd off) s = .next { s with
      pc := s.pc + 1, results := ⟨s.pc, off, s.engine.readReg (regAt off)⟩ :: s.results }) ∧
  ∀ s : State, exec (.rd 0x0C) s = .next { s with pc := s.pc + 1, results := ⟨s.pc, 0x0C, 0⟩ :: s.results }

/-- R70: in IDLE, and while BUSY outside the pending command's write set, a read of word `w` of a field returns its bytes
in lane order, the first the most significant, with lanes past the field 0; K and OPC return 0; the engine, its masks
included, is unchanged. -/
def Obligations.FieldReadsInLaneOrder : Prop :=
  ∀ (s : State) (f : Field) (w : Nat), w < fieldWords f →
    (∀ p n, s.engine.phase = .busy p n → f ∉ fieldsWritten (decodeCmd p)) →
    ∃ x : Word,
      exec (.rd (wordOff f w)) s =
        .next { s with pc := s.pc + 1, results := ⟨s.pc, wordOff f w, x⟩ :: s.results } ∧
      (f = .k ∨ f = .opc → x = 0) ∧
      (f ≠ .k → f ≠ .opc → ∀ i < 4, x.extractLsb' (24 - 8 * i) 8 = (s.engine.bytesOf f).getD (4 * w + i) 0)

/-- Inside the BUSY window a read at an aligned offset changes no engine state and returns the register's value in all
bits but the unspecified ones: LOADED's, the valid flags of STATUS, and the write set of the pending command (R270). -/
def Obligations.BusyReadsAreRightOutsideWriteSet : Prop :=
  ∀ (s : State) (p : Word) (n : Nat) (off : BitVec 8), s.engine.phase = .busy p n → off.toNat % 4 = 0 →
    ∃ (x : Word) (d : Nat),
      exec (.rd off) s = .next { s with pc := s.pc + 1, results := ⟨s.pc, off, x⟩ :: s.results, draws := d } ∧
      (let free : Word :=
        if off = 0x14 then 0x1FF else if off = 0x10 then 0x70
        else if mayWrite (decodeCmd p) (regAt off) then readableBits (regAt off) else 0
       x &&& ~~~free = s.engine.readReg (regAt off) &&& ~~~free ∧ (free = 0 → d = s.draws))

/-- R71: reads change no engine state; repeating a write to any register but CMD leaves the state of the first; a CMD
write accepts a command, or is dropped and sets WERR, so a second one after the first is dropped. -/
def Obligations.ReadsAndRepeatedWritesIdempotent : Prop :=
  (∀ (s t : State) (off : BitVec 8) (m : Word),
    (exec (.rd off) s = .next t ∨ exec (.poll off m) s = .next t) → t.engine = s.engine) ∧
  (∀ (s t u : State) (off : BitVec 8) (v : Word), off ≠ 0x0C → exec (.wr off v) s = .next t →
    exec (.wr off v) t = .next u → u.engine = t.engine) ∧
  (∀ (s t : State) (v : Word), exec (.wr 0x0C v) s = .next t →
    (s.engine.phase = .idle ∧ ∃ n, t.engine.phase = .busy v n) ∨
      (s.engine.isBusy = true ∧ t.engine = { s.engine with werr := true })) ∧
  (∀ (s t u : State) (v v' : Word), exec (.wr 0x0C v) s = .next t → exec (.wr 0x0C v') t = .next u →
    u.engine = { t.engine with werr := true })

/-- R64: an access that is misaligned or not 32 bits wide is answered BUS_ERROR with no change of any state, a read with
data 0; an RD, WR or POLL that makes one is a fault of the host program. -/
def Obligations.BadAccessIsBusError : Prop :=
  ∀ (s : State) (nbits : Nat) (off : BitVec 8) (v : Word),
    (nbits ≠ 32 ∨ off.toNat % 4 ≠ 0 →
      busRead nbits off s = ⟨.busError, 0, s⟩ ∧ (busWrite nbits off v s).resp = .busError ∧
      (busWrite nbits off v s).state = s) ∧
    (off.toNat % 4 ≠ 0 →
      exec (.rd off) s = .fault (.busError off) ∧ exec (.wr off v) s = .fault (.busError off) ∧
      exec (.poll off v) s = .fault (.busError off))

/-- A POLL at an aligned offset is one RD of it whose counter advances exactly if the selected bits are all 0
(R76). -/
def Obligations.PollIsReadThatRepeats : Prop :=
  ∀ (s : State) (off : BitVec 8) (m : Word), off.toNat % 4 = 0 →
    ∃ (x : Word) (d : Nat),
      exec (.rd off) s = .next { s with pc := s.pc + 1, results := ⟨s.pc, off, x⟩ :: s.results, draws := d } ∧
      exec (.poll off m) s = .next { s with
        pc := if x &&& m = 0 then s.pc + 1 else s.pc, results := ⟨s.pc, off, x⟩ :: s.results, draws := d }

/-! ### Writes -/

/-- R69: in IDLE a write to word `w` of a tracked field stores its lanes, sets mask bit `w`, and changes nothing else;
and no host write that is not a soft reset clears a mask bit, in any phase. -/
def Obligations.TrackedFieldWrite : Prop :=
  (∀ (s : State) (f : Field) (w : Nat) (v : Word), s.engine.phase = .idle → fieldTracked f = true →
    w < fieldWords f →
    ∃ t, exec (.wr (wordOff f w) v) s = .next t ∧
      (∀ j < fieldBytes f, (t.engine.bytesOf f)[j]? =
        if j / 4 = w then some (v.extractLsb' (24 - 8 * (j % 4)) 8) else (s.engine.bytesOf f)[j]?) ∧
      (∀ i < fieldWords f, t.engine.maskBit f i = (s.engine.maskBit f i || i == w)) ∧
      (∀ g ≠ f, t.engine.bytesOf g = s.engine.bytesOf g ∧ ∀ i, t.engine.maskBit g i = s.engine.maskBit g i) ∧
      t.engine.scalars = s.engine.scalars ∧ t = { s with engine := t.engine, pc := s.pc + 1 }) ∧
  (∀ (s t : State) (off : BitVec 8) (v : Word), isSoftReset (.wr off v) = false → exec (.wr off v) s = .next t →
    ∀ (f : Field) (i : Nat), s.engine.maskBit f i = true → t.engine.maskBit f i = true)

/-- In IDLE the parameter registers take their own bits of the value written, and nothing else changes (10_state.md
R37 to R42). -/
def Obligations.ParameterRegisterWrites : Prop :=
  ∀ (s : State) (v : Word), s.engine.phase = .idle →
    exec (.wr 0x18 v) s = .next { s with pc := s.pc + 1, engine := { s.engine with mcc := v.extractLsb' 0 16 } } ∧
    exec (.wr 0x1C v) s = .next { s with pc := s.pc + 1, engine := { s.engine with mnc := v.extractLsb' 0 16 } } ∧
    exec (.wr 0x20 v) s = .next { s with pc := s.pc + 1, engine := { s.engine with resLen := v.extractLsb' 0 5 } } ∧
    exec (.wr 0x24 v) s = .next { s with pc := s.pc + 1, engine := { s.engine with variant := v.extractLsb' 0 8 } } ∧
    exec (.wr 0x28 v) s = .next { s with pc := s.pc + 1, engine := { s.engine with
      ndig := v.extractLsb' 0 5, fill := v.extractLsb' 8 4 } }

/-- A read after a write to a parameter register or to a readable tracked field returns the value written, in the
register's own bits (20_memory.md R66, R74; 10_state.md R37 to R42, R45 to R49, R53, R54). -/
def Obligations.ReadAfterWriteReturnsValue : Prop :=
  ∀ (s : State) (off : BitVec 8) (v mask : Word), s.engine.phase = .idle →
    (off = 0x18 ∧ mask = 0xFFFF ∨ off = 0x1C ∧ mask = 0xFFFF ∨ off = 0x20 ∧ mask = 0x1F ∨ off = 0x24 ∧ mask = 0xFF ∨
      off = 0x28 ∧ mask = 0xF1F ∨
      (0x50 ≤ off.toNat ∧ off.toNat < 0xA0 ∨ 0xC0 ≤ off.toNat ∧ off.toNat < 0xD8) ∧ off.toNat % 4 = 0 ∧
        mask = 0xFFFFFFFF) →
    ∃ t u, exec (.wr off v) s = .next t ∧ exec (.rd off) t = .next u ∧
      u = { t with pc := t.pc + 1, results := ⟨t.pc, off, v &&& mask⟩ :: t.results }

/-- Reserved space (20_memory.md R72): reserved offsets read 0 and ignore writes, writes to read-only registers are ignored, in every phase and
without WERR; reserved bits read 0 and do not matter in a write, except in a CMD word, where they make the command
illegal (10_state.md R51; 20_memory.md R66). That the reserved bits of an unspecified read in the BUSY window (R270), SQN's
lanes past its end among them, read 0 is the model's reading (log entry 20). -/
def Obligations.ReservedSpaceReadsZeroIgnoresWrites : Prop :=
  (∀ (s : State) (off : BitVec 8) (v : Word), off.toNat % 4 = 0 →
    (off = 0x00 ∨ off = 0x04 ∨ off = 0x14 ∨ off = 0x2C ∨ 0xA0 ≤ off.toNat ∧ off.toNat < 0xC0 ∨ 0xD8 ≤ off.toNat) →
    exec (.wr off v) s = .next { s with pc := s.pc + 1 }) ∧
  (∀ (s : State) (off : BitVec 8), off.toNat % 4 = 0 → (off = 0x2C ∨ 0xD8 ≤ off.toNat) →
    exec (.rd off) s = .next { s with pc := s.pc + 1, results := ⟨s.pc, off, 0⟩ :: s.results }) ∧
  (∀ (s t : State) (off : BitVec 8) (x : ReadResult), exec (.rd off) s = .next t → t.results.head? = some x →
    x.value &&& ~~~readableBits (regAt off) = 0) ∧
  (∀ (s : State) (off : BitVec 8) (v : Word), off ≠ 0x0C →
    exec (.wr off v) s = exec (.wr off (v &&& readableBits (regAt off))) s) ∧
  (∀ w : Word, w.extractLsb' 8 24 ≠ 0 → decodeCmd w = .illegal w)

/-- Every WR at an aligned offset completes, in every phase, and advances the counter (R68, R75). -/
def Obligations.AlignedWriteCompletes : Prop :=
  ∀ (s : State) (off : BitVec 8) (v : Word), off.toNat % 4 = 0 →
    ∃ t, exec (.wr off v) s = .next t ∧ t.pc = s.pc + 1 ∧ t.program = s.program ∧ t.results = s.results ∧
      t.rst = s.rst ∧ (off ≠ 0x0C → t.draws = s.draws)

/-- R271: while BUSY, CTRL and STATUS writes are honoured; a write to another writable register is dropped and sets
WERR; a write to a read-only register or reserved offset is ignored. -/
def Obligations.BusyWritesAreDropped : Prop :=
  ∀ (s : State) (p : Word) (n : Nat) (off : BitVec 8) (v : Word), s.engine.phase = .busy p n → off.toNat % 4 = 0 →
    (off = 0x08 → v[1] = true → exec (.wr off v) s = .next { s with engine := State.reset.engine, pc := s.pc + 1 }) ∧
    (off = 0x08 → v[1] = false →
      exec (.wr off v) s = .next { s with engine := { s.engine with irqEn := v[0] }, pc := s.pc + 1 }) ∧
    (off = 0x10 → exec (.wr off v) s = .next { s with engine := s.engine.statusWrite v, pc := s.pc + 1 }) ∧
    (off ∈ ([0x0C, 0x18, 0x1C, 0x20, 0x24, 0x28] : List (BitVec 8)) ∨ 0x30 ≤ off.toNat ∧ off.toNat < 0xA0 ∨
        0xC0 ≤ off.toNat ∧ off.toNat < 0xD8 →
      exec (.wr off v) s = .next { s with engine := { s.engine with werr := true }, pc := s.pc + 1 }) ∧
    (off ∈ ([0x00, 0x04, 0x14, 0x2C] : List (BitVec 8)) ∨ 0xA0 ≤ off.toNat ∧ off.toNat < 0xC0 ∨ 0xD8 ≤ off.toNat →
      exec (.wr off v) s = .next { s with pc := s.pc + 1 })

/-- R200: a CMD write in IDLE accepts the word, whatever it is: PENDING, BUSY, and DONE, ERR and ERRCODE cleared, so
`irq` is 0; while BUSY it is dropped instead. -/
def Obligations.CommandWriteAccepts : Prop :=
  ∀ (s : State) (v : Word),
    (s.engine.phase = .idle → ∃ n d, exec (.wr 0x0C v) s = .next { s with
        pc := s.pc + 1, draws := d
        engine := { s.engine with phase := .busy v n, done := false, err := false, errcode := .none } } ∧
      ∀ t, exec (.wr 0x0C v) s = .next t → t.engine.irq = false ∧ t.engine.isBusy = true) ∧
    (s.engine.isBusy = true →
      exec (.wr 0x0C v) s = .next { s with pc := s.pc + 1, engine := { s.engine with werr := true } })

/-! ### Completion of commands -/

/-- Every command word's completion answers a next state: IDLE, DONE, ERR exactly where the code is not NONE, a code of
at most 7, and the host as it was (44_maintenance.md R201; 60_exceptions.md R220, R226). -/
def Obligations.EveryCommandCompletesAndReports : Prop :=
  ∀ (c : Instr) (s : State), c.isCmdWord = true →
    ∃ e : Engine, exec c s = .next { s with engine := e } ∧ e.phase = .idle ∧ e.done = true ∧
      (e.err = true ↔ e.errcode ≠ .none) ∧ e.errcode.code.toNat ≤ 7 ∧ (e.errcode = .none ↔ e.errcode.code = 0)

/-- What a completion leaves unchanged: everything outside the command's write set and the report (44_maintenance.md
R203, R226). -/
def Obligations.CommandWritesOnlyItsWriteSet : Prop :=
  ∀ (c : Instr) (s t : State), c.isCmdWord = true → exec c s = .next t →
    t = { s with engine := t.engine } ∧
    t.engine.irqEn = s.engine.irqEn ∧ t.engine.werr = s.engine.werr ∧ t.engine.mcc = s.engine.mcc ∧
    t.engine.mnc = s.engine.mnc ∧ t.engine.variant = s.engine.variant ∧ t.engine.ndig = s.engine.ndig ∧
    t.engine.fill = s.engine.fill ∧
    (resLenWritten c = false → t.engine.resLen = s.engine.resLen) ∧
    (∀ f : Field, f ∉ fieldsWritten c →
      t.engine.bytesOf f = s.engine.bytesOf f ∧ ∀ w, t.engine.maskBit f w = s.engine.maskBit f w) ∧
    (writesResstar c = false → t.engine.resstarValid = s.engine.resstarValid) ∧
    (c ≠ .akaVerify → c ≠ .akaAuth → c ≠ .zeroize →
      t.engine.sqnValid = s.engine.sqnValid ∧ t.engine.macOk = s.engine.macOk)

/-- R172: KDF_RESSTAR follows its pseudocode: RESSTAR and its flag are cleared first; MISSING_INPUT, BAD_RES_LEN and
BAD_PLMN are checked in that order; on success RESSTAR is RESSTAR_FN of MCC, MNC, RAND, the first RES_LEN bytes of RES,
CK and IK. Nothing else changes. -/
def Obligations.KdfResstarResult : Prop :=
  ∀ s : State,
    let e := s.engine
    let n := e.resLen.toNat
    let ready := e.rand.loaded = true ∧ e.res.loaded = true ∧ e.ck.loaded = true ∧ e.ik.loaded = true
    let fails (c : ErrCode) := exec .kdfResstar s = .next { s with engine := { e with
      phase := .idle, done := true, err := true, errcode := c, resstar := zeroBytes 16, resstarValid := false } }
    decodeCmd 0x00000001 = .kdfResstar ∧
    (¬ ready → fails .missingInput) ∧
    (ready → (n < 1 ∨ 16 < n) → fails .badResLen) ∧
    (ready → 1 ≤ n → n ≤ 16 → (999 < e.mcc.toNat ∨ 999 < e.mnc.toNat) → fails .badPlmn) ∧
    (ready → 1 ≤ n → n ≤ 16 → e.mcc.toNat ≤ 999 → e.mnc.toNat ≤ 999 →
      exec .kdfResstar s = .next { s with engine := { e with
        phase := .idle, done := true, err := false, errcode := .none
        resstar := resstarFn e.mcc e.mnc e.rand.bytes (e.res.bytes.toList.take n) e.ck.bytes e.ik.bytes
        resstarValid := true } })

/-- The result of KDF_RESSTAR depends on RAND, CK, IK, the first RES_LEN bytes of RES, RES_LEN, MCC, MNC and the load
state alone: RES bytes at positions RES_LEN and above do not affect it, nor do K, OPC, AUTN or SQN (R172, R203). -/
def Obligations.KdfReadsOnlyItsInputs : Prop :=
  ∀ (s s' t t' : State),
    s'.engine.rand = s.engine.rand → s'.engine.ck = s.engine.ck → s'.engine.ik = s.engine.ik →
    s'.engine.res.mask = s.engine.res.mask → s'.engine.resLen = s.engine.resLen →
    (∀ j < s.engine.resLen.toNat, byteAt s'.engine.res.bytes j = byteAt s.engine.res.bytes j) →
    s'.engine.mcc = s.engine.mcc → s'.engine.mnc = s.engine.mnc →
    exec .kdfResstar s = .next t → exec .kdfResstar s' = .next t' →
    t'.engine.resstar = t.engine.resstar ∧ t'.engine.resstarValid = t.engine.resstarValid ∧
    t'.engine.errcode = t.engine.errcode

/-- AKA_VERIFY and AKA_AUTH without their inputs, and AKA_AUTH with MCC or MNC above 999: the outputs are cleared, the
error is reported, and CK, IK, RES and everything else stay (42_aka.md R134, R137, R138; 60_exceptions.md R225). -/
def Obligations.AkaInputChecks : Prop :=
  ∀ s : State,
    let e := s.engine
    let ready := e.k.loaded = true ∧ e.opc.loaded = true ∧ e.rand.loaded = true ∧ e.autn.loaded = true
    let fails (i : Instr) (c : ErrCode) := exec i s = .next { s with engine := { e with
      phase := .idle, done := true, err := true, errcode := c, resstar := zeroBytes 16, resstarValid := false
      sqn := zeroBytes 6, sqnValid := false, maca := zeroBytes 8, macOk := false } }
    (¬ ready → fails .akaVerify .missingInput ∧ fails .akaAuth .missingInput) ∧
    (ready → (999 < e.mcc.toNat ∨ 999 < e.mnc.toNat) → fails .akaAuth .badPlmn)

/-- AKA_VERIFY with its inputs loaded, for every port: a RES length outside 1 to 16 wipes and reports BAD_RES_LEN; a MAC
mismatch keeps SQN and MACA, wipes and reports AUTH_FAILURE; a match installs CK, IK, RES and RES_LEN. With the
configured port this is what exec answers (R131, R132, R135 to R137, R139). -/
def Obligations.AkaVerifyResult : Prop :=
  ∀ (vectors : VectorsPort) (f1 : F1Port) (s : State),
    let e := s.engine
    let v := vectors e.k.bytes e.opc.bytes e.rand.bytes e.variant (amfOf e.autn.bytes)
    let sqn := xorBytes (sqnakOf e.autn.bytes) v.ak
    let maca := (f1 e.k.bytes e.opc.bytes e.rand.bytes e.variant (amfOf e.autn.bytes) sqn).maca
    let lenOk := 1 ≤ v.resLen.toNat ∧ v.resLen.toNat ≤ 16
    e.k.loaded = true → e.opc.loaded = true → e.rand.loaded = true → e.autn.loaded = true →
    ∃ t, complete (akaCore vectors f1 false e) s = .next t ∧
      (vectors = Config.milVectors → f1 = Config.milF1 → exec .akaVerify s = .next t) ∧
      (¬ lenOk → t = { s with engine := { e with
        phase := .idle, done := true, err := true, errcode := .badResLen
        resstar := zeroBytes 16, resstarValid := false, sqn := zeroBytes 6, sqnValid := false
        maca := zeroBytes 8, macOk := false
        ck := .cleared 16 4, ik := .cleared 16 4, res := .cleared 16 4, resLen := 0 } }) ∧
      (lenOk → maca ≠ macnOf e.autn.bytes → t = { s with engine := { e with
        phase := .idle, done := true, err := true, errcode := .authFailure
        resstar := zeroBytes 16, resstarValid := false, sqn := sqn, sqnValid := true, maca := maca, macOk := false
        ck := .cleared 16 4, ik := .cleared 16 4, res := .cleared 16 4, resLen := 0 } }) ∧
      (lenOk → maca = macnOf e.autn.bytes → t = { s with engine := { e with
        phase := .idle, done := true, err := false, errcode := .none
        resstar := zeroBytes 16, resstarValid := false, sqn := sqn, sqnValid := true, maca := maca, macOk := true
        ck := .full v.ck, ik := .full v.ik, res := .full (keepFirst v.res v.resLen.toNat), resLen := v.resLen } })

/-- AKA_AUTH with its inputs loaded and MCC and MNC at most 999, for every port: as AKA_VERIFY, and on a match RESSTAR
is RESSTAR_FN of the port's RES at its own length, CK and IK (R138, R130; 43_kdf.md R171). -/
def Obligations.AkaAuthResult : Prop :=
  ∀ (vectors : VectorsPort) (f1 : F1Port) (s : State),
    let e := s.engine
    let v := vectors e.k.bytes e.opc.bytes e.rand.bytes e.variant (amfOf e.autn.bytes)
    let sqn := xorBytes (sqnakOf e.autn.bytes) v.ak
    let maca := (f1 e.k.bytes e.opc.bytes e.rand.bytes e.variant (amfOf e.autn.bytes) sqn).maca
    let lenOk := 1 ≤ v.resLen.toNat ∧ v.resLen.toNat ≤ 16
    e.k.loaded = true → e.opc.loaded = true → e.rand.loaded = true → e.autn.loaded = true →
    e.mcc.toNat ≤ 999 → e.mnc.toNat ≤ 999 →
    ∃ t, complete (akaCore vectors f1 true e) s = .next t ∧
      (vectors = Config.milVectors → f1 = Config.milF1 → exec .akaAuth s = .next t) ∧
      (¬ lenOk → t = { s with engine := { e with
        phase := .idle, done := true, err := true, errcode := .badResLen
        resstar := zeroBytes 16, resstarValid := false, sqn := zeroBytes 6, sqnValid := false
        maca := zeroBytes 8, macOk := false
        ck := .cleared 16 4, ik := .cleared 16 4, res := .cleared 16 4, resLen := 0 } }) ∧
      (lenOk → maca ≠ macnOf e.autn.bytes → t = { s with engine := { e with
        phase := .idle, done := true, err := true, errcode := .authFailure
        resstar := zeroBytes 16, resstarValid := false, sqn := sqn, sqnValid := true, maca := maca, macOk := false
        ck := .cleared 16 4, ik := .cleared 16 4, res := .cleared 16 4, resLen := 0 } }) ∧
      (lenOk → maca = macnOf e.autn.bytes → t = { s with engine := { e with
        phase := .idle, done := true, err := false, errcode := .none
        resstar := resstarFn e.mcc e.mnc e.rand.bytes (v.res.toList.take v.resLen.toNat) v.ck v.ik
        resstarValid := true, sqn := sqn, sqnValid := true, maca := maca, macOk := true
        ck := .full v.ck, ik := .full v.ik, res := .full (keepFirst v.res v.resLen.toNat), resLen := v.resLen } })

/-- R135 and R136: the three parts of AUTN in order, and SQN as the byte-by-byte XOR. -/
def Obligations.AutnSplitAndSqnRecovery : Prop :=
  ∀ (autn : ByteStr 16) (ak : ByteStr 6),
    (sqnakOf autn).toList ++ (amfOf autn).toList ++ (macnOf autn).toList = autn.toList ∧
    ∀ (j : Nat) (h : j < 6), (xorBytes (sqnakOf autn) ak)[j] = autn[j] ^^^ ak[j]

/-- R112: BCD_ENC follows its pseudocode: MISSING_INPUT, BAD_BCD_LEN, BAD_DIGIT in that order with nothing else changed;
on success byte `k` holds digit `2k` in its low nibble and digit `2k+1`, or FILL past the end, in its high nibble. -/
def Obligations.BcdEncResult : Prop :=
  ∀ s : State,
    let e := s.engine
    let n := e.ndig.toNat
    let digit (i : Nat) := hexval (byteAt e.bcdText.bytes i)
    let fails (c : ErrCode) := exec .bcdEnc s =
      .next { s with engine := { e with phase := .idle, done := true, err := true, errcode := c } }
    decodeCmd 0x00000004 = .bcdEnc ∧
    (e.bcdText.loaded = false → fails .missingInput) ∧
    (e.bcdText.loaded = true → 16 < n → fails .badBcdLen) ∧
    (e.bcdText.loaded = true → n ≤ 16 → (∃ i < n, digit i = none) → fails .badDigit) ∧
    (e.bcdText.loaded = true → n ≤ 16 → (∀ i < n, digit i ≠ none) →
      ∃ out : ByteStr 8,
        exec .bcdEnc s = .next { s with engine := { e with
          phase := .idle, done := true, err := false, errcode := .none, bcdPacked := .full out } } ∧
        ∀ (k : Nat) (h : k < 8),
          (2 * k < n → some (out[k].extractLsb' 0 4) = digit (2 * k)) ∧
          (2 * k + 1 < n → some (out[k].extractLsb' 4 4) = digit (2 * k + 1)) ∧
          (2 * k + 1 = n → out[k].extractLsb' 4 4 = e.fill) ∧ (n ≤ 2 * k → out[k] = 0))

/-- R113: BCD_DEC follows its pseudocode: MISSING_INPUT, then BAD_BCD_LEN, with nothing else changed; on success
character `i` is that of the low nibble of byte `i/2` for even `i`, of the high nibble for odd, and 0x00 from NDIG on. -/
def Obligations.BcdDecResult : Prop :=
  ∀ s : State,
    let e := s.engine
    let n := e.ndig.toNat
    let fails (c : ErrCode) := exec .bcdDec s =
      .next { s with engine := { e with phase := .idle, done := true, err := true, errcode := c } }
    decodeCmd 0x00000005 = .bcdDec ∧
    (e.bcdPacked.loaded = false → fails .missingInput) ∧
    (e.bcdPacked.loaded = true → 16 < n → fails .badBcdLen) ∧
    (e.bcdPacked.loaded = true → n ≤ 16 →
      ∃ out : ByteStr 16,
        exec .bcdDec s = .next { s with engine := { e with
          phase := .idle, done := true, err := false, errcode := .none, bcdText := .full out } } ∧
        ∀ (i : Nat) (h : i < 16),
          (i < n → i % 2 = 0 → out[i] = hexchar ((byteAt e.bcdPacked.bytes (i / 2)).extractLsb' 0 4)) ∧
          (i < n → i % 2 = 1 → out[i] = hexchar ((byteAt e.bcdPacked.bytes (i / 2)).extractLsb' 4 4)) ∧
          (n ≤ i → out[i] = 0))

/-- R110: the digit values of characters, the characters of digits, and that they agree. -/
def Obligations.DigitCharacters : Prop :=
  (∀ c : Byte, hexval c =
    if 0x30 ≤ c.toNat ∧ c.toNat ≤ 0x39 then some (BitVec.ofNat 4 (c.toNat - 0x30))
    else if 0x61 ≤ c.toNat ∧ c.toNat ≤ 0x66 then some (BitVec.ofNat 4 (c.toNat - 0x61 + 10))
    else if 0x41 ≤ c.toNat ∧ c.toNat ≤ 0x46 then some (BitVec.ofNat 4 (c.toNat - 0x41 + 10)) else none) ∧
  (∀ d : BitVec 4, hexval (hexchar d) = some d ∧
    (0x30 ≤ (hexchar d).toNat ∧ (hexchar d).toNat ≤ 0x39 ∨ 0x61 ≤ (hexchar d).toNat ∧ (hexchar d).toNat ≤ 0x66))

/-- R114: BCD_ENC and then BCD_DEC with the same NDIG, of either parity and with any FILL, give the first NDIG characters
back in lower case, followed by zero bytes. -/
def Obligations.BcdRoundTrip : Prop :=
  ∀ s : State, s.engine.bcdText.loaded = true → s.engine.ndig.toNat ≤ 16 →
    (∀ i < s.engine.ndig.toNat, hexval (byteAt s.engine.bcdText.bytes i) ≠ none) →
    ∃ t u, exec .bcdEnc s = .next t ∧ exec .bcdDec t = .next u ∧ u.engine.errcode = .none ∧
      ∀ j < 16, byteAt u.engine.bcdText.bytes j =
        if j < s.engine.ndig.toNat then
          (let c := byteAt s.engine.bcdText.bytes j
           if 0x41 ≤ c.toNat ∧ c.toNat ≤ 0x46 then c + 0x20 else c)
        else 0

/-- R205: ZEROIZE clears every data field, mask and valid flag and RES_LEN, keeps the parameter registers, IRQ_EN and
WERR, and reports success; LOADED is then 0. -/
def Obligations.ZeroizeResult : Prop :=
  ∀ s : State, ∃ t, exec .zeroize s = .next t ∧ decodeCmd 0x00000006 = .zeroize ∧
    (∀ f : Field, t.engine.bytesOf f = List.replicate (fieldBytes f) 0 ∧ ∀ w, t.engine.maskBit f w = false) ∧
    loadedWord t.engine = 0 ∧ t.engine.scalars =
      { s.engine.scalars with
        phase := .idle, done := true, err := false, errcode := .none, resLen := 0
        resstarValid := false, sqnValid := false, macOk := false } ∧
    t = { s with engine := t.engine }

/-- After an AKA command that ends in AUTH_FAILURE, whatever the port, no RES\* is held, CK, IK and RES are zero and
unloaded, and SQN stays valid; and no other command ends so. The two AKA commands are AKA_CORE with the configured port
(42_aka.md R137, R138, R140; 44_maintenance.md R202; 60_exceptions.md R220). -/
def Obligations.AuthFailureWipesCkIkRes : Prop :=
  (∀ (vectors : VectorsPort) (f1 : F1Port) (auth : Bool) (s t : State),
    complete (akaCore vectors f1 auth s.engine) s = .next t → t.engine.errcode = .authFailure →
    t.engine.resstar = zeroBytes 16 ∧ t.engine.resstarValid = false ∧ t.engine.macOk = false ∧
    t.engine.sqnValid = true ∧ t.engine.resLen = 0 ∧
    ∀ f : Field, f = .ck ∨ f = .ik ∨ f = .res →
      t.engine.bytesOf f = List.replicate 16 0 ∧ ∀ w, t.engine.maskBit f w = false) ∧
  (∀ (c : Instr) (s t : State), c.isCmdWord = true → c ≠ .akaVerify → c ≠ .akaAuth → exec c s = .next t →
    t.engine.errcode ≠ .authFailure) ∧
  ∀ s : State, exec .akaVerify s = complete (akaCore Config.milVectors Config.milF1 false s.engine) s ∧
    exec .akaAuth s = complete (akaCore Config.milVectors Config.milF1 true s.engine) s

/-! ### The KDF -/

/-- R165, R166, R167: the parts of S in order, P0 of 32 bytes with MNC before MCC, the three lengths, and the length of
the whole. -/
def Obligations.KdfStringLayout : Prop :=
  ∀ (mcc mnc : Nat) (rand res : List Byte), mcc ≤ 999 → mnc ≤ 999 → rand.length = 16 → 1 ≤ res.length →
    res.length ≤ 16 →
    servingNetwork mcc mnc = ascii "5G:mnc".toList ++ dec3 mnc ++ ascii ".mcc".toList ++ dec3 mcc ++
      ascii ".3gppnetwork.org".toList ∧
    (servingNetwork mcc mnc).length = 32 ∧
    kdfString mcc mnc rand res = [0x6B] ++ servingNetwork mcc mnc ++ [0x00, 0x20] ++ rand ++ [0x00, 0x10] ++ res ++
      [0x00, BitVec.ofNat 8 res.length] ∧
    (kdfString mcc mnc rand res).length = 55 + res.length

/-- The three decimal digits of `dec3` spell the number (00_scope.md R9). -/
def Obligations.DecimalDigitsSpellNumber : Prop :=
  ∀ n : Nat, n ≤ 999 → ∃ a b c : Nat, a ≤ 9 ∧ b ≤ 9 ∧ c ≤ 9 ∧ n = 100 * a + 10 * b + c ∧
    dec3 n = [BitVec.ofNat 8 (0x30 + a), BitVec.ofNat 8 (0x30 + b), BitVec.ofNat 8 (0x30 + c)]

/-- R161: the padded message is the message, 0x80, the least number of zeros and the bit length as an 8-byte big-endian
number, a multiple of 64 bytes long, and its blocks are its bytes as 16 big-endian words each. -/
def Obligations.PaddingIsLeastMultipleOfBlock : Prop :=
  ∀ m : List Byte,
    ∃ z : Nat, pad m = m ++ [0x80] ++ List.replicate z 0 ++ be64 (8 * m.length) ∧ (be64 (8 * m.length)).length = 8 ∧
      (z : Int) = (55 - (m.length : Int)) % 64 ∧ (pad m).length % 64 = 0 ∧
      (∀ z' : Nat, (m.length + 1 + z' + 8) % 64 = 0 → z ≤ z') ∧
      (messageBlocks m).length = (pad m).length / 64 ∧ (∀ b ∈ messageBlocks m, b.length = 16) ∧
      (messageBlocks m).flatten.flatMap be32 = pad m ∧
      (∀ w : Word, (be32 w).foldl (fun a b => 256 * a + b.toNat) 0 = w.toNat) ∧
      (m.length < 2 ^ 61 → (be64 (8 * m.length)).foldl (fun a b => 256 * a + b.toNat) 0 = 8 * m.length)

/-- R162, R163, R164: SHA-256 after padding. The initial hash and the round constants are the first 32 bits of the
fractional parts of the square and cube roots of the first primes, and have the listed values; Ch, Maj and the four Sigma
functions bit by bit; the schedule of a block; the 64 rounds; the chaining of the blocks and the digest; the two checks. -/
def Obligations.Sha256FollowsComputation : Prop :=
  let primes := (List.range 312).filter fun p => 2 ≤ p && (List.range p).all fun d => d < 2 || p % d != 0
  let initial := [initialHash.a, initialHash.b, initialHash.c, initialHash.d, initialHash.e, initialHash.f,
    initialHash.g, initialHash.h]
  let number (w : List Word) := w.foldl (fun acc x => acc * 2 ^ 32 + x.toNat) 0
  (primes.length = 64 ∧ roundConstants.length = 64) ∧
  (∀ x ∈ primes.zip initial, ∃ m : Nat,
    (m * 2 ^ 32 + x.2.toNat) ^ 2 ≤ x.1 * 2 ^ 64 ∧ x.1 * 2 ^ 64 < (m * 2 ^ 32 + x.2.toNat + 1) ^ 2) ∧
  (∀ x ∈ primes.zip roundConstants, ∃ m : Nat,
    (m * 2 ^ 32 + x.2.toNat) ^ 3 ≤ x.1 * 2 ^ 96 ∧ x.1 * 2 ^ 96 < (m * 2 ^ 32 + x.2.toNat + 1) ^ 3) ∧
  number initial = 0x6a09e667bb67ae853c6ef372a54ff53a510e527f9b05688c1f83d9ab5be0cd19 ∧
  ((List.range 8).map fun r => number ((roundConstants.drop (8 * r)).take 8)) =
    [0x428a2f9871374491b5c0fbcfe9b5dba53956c25b59f111f1923f82a4ab1c5ed5,
     0xd807aa9812835b01243185be550c7dc372be5d7480deb1fe9bdc06a7c19bf174,
     0xe49b69c1efbe47860fc19dc6240ca1cc2de92c6f4a7484aa5cb0a9dc76f988da,
     0x983e5152a831c66db00327c8bf597fc7c6e00bf3d5a7914706ca635114292967,
     0x27b70a852e1b21384d2c6dfc53380d13650a7354766a0abb81c2c92e92722c85,
     0xa2bfe8a1a81a664bc24b8b70c76c51a3d192e819d6990624f40e3585106aa070,
     0x19a4c1161e376c082748774c34b0bcb5391c0cb34ed8aa4a5b9cca4f682e6ff3,
     0x748f82ee78a5636f84c878148cc7020890befffaa4506cebbef9a3f7c67178f2] ∧
  (∀ (x y z : Word) (i : Nat), i < 32 →
    let rotr (n : Nat) := x.getLsbD ((i + n) % 32)
    (shaCh x y z).getLsbD i = (if x.getLsbD i then y.getLsbD i else z.getLsbD i) ∧
    (shaMaj x y z).getLsbD i = (if x.getLsbD i = y.getLsbD i then x.getLsbD i else z.getLsbD i) ∧
    (bigSigma0 x).getLsbD i = (rotr 2 ^^ rotr 13 ^^ rotr 22) ∧ (bigSigma1 x).getLsbD i = (rotr 6 ^^ rotr 11 ^^ rotr 25) ∧
    (smallSigma0 x).getLsbD i = (rotr 7 ^^ rotr 18 ^^ x.getLsbD (i + 3)) ∧
    (smallSigma1 x).getLsbD i = (rotr 17 ^^ rotr 19 ^^ x.getLsbD (i + 10))) ∧
  (∀ b : List Word, b.length = 16 →
    (schedule b).length = 64 ∧ (∀ t < 16, (schedule b).getD t 0 = b.getD t 0) ∧
    ∀ t : Nat, 16 ≤ t → t < 64 →
      (schedule b).getD t 0 = smallSigma1 ((schedule b).getD (t - 2) 0) + (schedule b).getD (t - 7) 0 +
        smallSigma0 ((schedule b).getD (t - 15) 0) + (schedule b).getD (t - 16) 0) ∧
  (∀ (hash : HashState) (b : List Word), b.length = 16 →
    ∃ v : Nat → HashState, v 0 = hash ∧
      (∀ t < 64,
        let x := v t
        let t1 := x.h + bigSigma1 x.e + shaCh x.e x.f x.g + roundConstants.getD t 0 + (schedule b).getD t 0
        let t2 := bigSigma0 x.a + shaMaj x.a x.b x.c
        v (t + 1) = ⟨t1 + t2, x.a, x.b, x.c, x.d + t1, x.e, x.f, x.g⟩) ∧
      (let r := v 64
       let n := compress hash b
       n.a = hash.a + r.a ∧ n.b = hash.b + r.b ∧ n.c = hash.c + r.c ∧ n.d = hash.d + r.d ∧
       n.e = hash.e + r.e ∧ n.f = hash.f + r.f ∧ n.g = hash.g + r.g ∧ n.h = hash.h + r.h)) ∧
  (∀ m : List Byte, ∃ hs : Nat → HashState, hs 0 = initialHash ∧
    (∀ (i : Nat) (b : List Word), (messageBlocks m)[i]? = some b → hs (i + 1) = compress (hs i) b) ∧
    (let r := hs (messageBlocks m).length
     sha256 m = be32 r.a ++ be32 r.b ++ be32 r.c ++ be32 r.d ++ be32 r.e ++ be32 r.f ++ be32 r.g ++ be32 r.h)) ∧
  (∀ w : Word, be32 w = [w.extractLsb' 24 8, w.extractLsb' 16 8, w.extractLsb' 8 8, w.extractLsb' 0 8]) ∧
  (sha256 (ascii ['a', 'b', 'c'])).foldl (fun acc x => acc * 256 + x.toNat) 0 =
    0xba7816bf8f01cfea414140de5dae2223b00361a396177a9cb410ff61f20015ad ∧
  (sha256 []).foldl (fun acc x => acc * 256 + x.toNat) 0 =
    0xe3b0c44298fc1c149afbf4c8996fb92427ae41e4649b934ca495991b7852b855

/-- RES\* is the LAST 16 of the 32 bytes of HMAC-SHA-256 with key CK ‖ IK over S (43_kdf.md R168, R171). -/
def Obligations.ResstarIsLastSixteenBytes : Prop :=
  ∀ (mcc mnc : BitVec 16) (rand ck ik : ByteStr 16) (res : List Byte),
    let o := hmac (ck.toList ++ ik.toList) (kdfString mcc.toNat mnc.toNat rand.toList res)
    o.length = 32 ∧ (resstarFn mcc mnc rand res ck ik).toList = o.drop 16

/-- HMAC with the engine's 32-byte key: the key is padded with 32 zero bytes and never hashed, the inner hash covers 3
blocks for every RES length in 1 to 16 and the outer one 2 (43_kdf.md R169). -/
def Obligations.HmacBlocks : Prop :=
  ∀ key s : List Byte, key.length = 32 → 56 ≤ s.length → s.length ≤ 71 →
    hmacKey key = key ++ List.replicate 32 0 ∧
    (let ipadKey := (key ++ List.replicate 32 0).map fun b => b ^^^ 0x36
     let opadKey := (key ++ List.replicate 32 0).map fun b => b ^^^ 0x5C
     hmac key s = sha256 (opadKey ++ sha256 (ipadKey ++ s)) ∧ (messageBlocks (ipadKey ++ s)).length = 3 ∧
     (messageBlocks (opadKey ++ sha256 (ipadKey ++ s))).length = 2)

/-! ### Invariants and whole-machine rules -/

/-- Every step keeps the invariant: a word not loaded is 0, an invalid RES\* or SQN is 0, DONE, ERR and ERRCODE are 0
while BUSY, ERR agrees with ERRCODE, and the counter stays in the program (10_state.md R29, R50 to R52, R57, R59;
70_reset_and_hazards.md R270). -/
def Obligations.StepKeepsInvariant : Prop :=
  ∀ s t : State, s.Inv → step s = .next t → t.Inv

/-- The invariant holds after reset. -/
def Obligations.ResetMeetsInvariant : Prop := State.reset.Inv

/-- The gate on RES\* (42_aka.md R140): from any state that meets it, a step gives one that meets it. -/
def Obligations.StepKeepsGate : Prop :=
  ∀ (last : Option (Instr × ErrCode)) (s t : State), Gate last s → step s = .next t → Gate (nextWriter last s t) t

/-- The gate holds after reset, with no RES\* writer yet. -/
def Obligations.ResetMeetsGate : Prop := Gate none State.reset

/-- Two systems that differ only in the bytes of K and OPC take steps that differ only there, unless the step is the
completion of an AKA command: the keys cannot be read back (10_state.md R43, R44; 20_memory.md R81; 60_exceptions.md
R230). This holds for equal delays and equal draws: that CMD_DURATION and an unspecified read do not depend on the keys is
the model's choice (log entries 1 and 2), so nothing follows about timing. -/
def Obligations.KeysCannotBeReadBack : Prop :=
  ∀ s s' : State, s.hideKeys = s'.hideKeys → (nextMove s).callsPort = false →
    hideOutcome (step s) = hideOutcome (step s')

/-- The engine leaves IDLE only by accepting a command word, and leaves BUSY only by its completion or a reset; a pending
word is never replaced (44_maintenance.md R200, R201; 70_reset_and_hazards.md R261, R271). -/
def Obligations.PhaseChangesOnlyByAcceptCompletionReset : Prop :=
  ∀ s t : State, step s = .next t →
    (∀ p n, s.engine.phase = .idle → t.engine.phase = .busy p n → ∃ u, nextMove s = .run (.wr 0x0C p) u) ∧
    (∀ p n, s.engine.phase = .busy p n → t.engine.phase = .idle →
      (∃ u, nextMove s = .run (decodeCmd p) u) ∨ (∃ u, nextMove s = .hardReset u) ∨
      ∃ u v, nextMove s = .run (.wr 0x08 v) u ∧ v[1] = true) ∧
    (∀ p n q m, s.engine.phase = .busy p n → t.engine.phase = .busy q m → q = p)

/-- While a command is pending, a host transaction either soft-resets the engine or changes nothing the command reads:
only IRQ_EN and the flags DONE, ERR, ERRCODE and WERR can change (20_memory.md R74, 70_reset_and_hazards.md R271,
R272). -/
def Obligations.BusyInputsStayAsAccepted : Prop :=
  ∀ (i : Instr) (s t : State) (p : Word) (n : Nat), i.isCmdWord = false → s.engine.phase = .busy p n →
    exec i s = .next t →
    (isSoftReset i = true ∧ t.engine = State.reset.engine) ∨
    t.engine = { s.engine with
      irqEn := t.engine.irqEn, done := t.engine.done, err := t.engine.err, errcode := t.engine.errcode
      werr := t.engine.werr }

/-- A pending command comes nearer to its completion at every step: the engine is IDLE afterwards, or the same word is
pending with fewer slots left (70_reset_and_hazards.md R275; the countdown is the model's, log entry 1). -/
def Obligations.PendingCommandProgresses : Prop :=
  ∀ (s t : State) (p : Word) (n : Nat), s.engine.phase = .busy p n → step s = .next t →
    t.engine.phase = .idle ∨ ∃ m, m < n ∧ t.engine.phase = .busy p m

/-- WAIT ends, and what it ends with does not depend on the delay: from a BUSY state with `n` slots left whose next
transaction is POLL STATUS, 0x1, `n` polls read BUSY 1, the completion is taken, and the poll after it reads BUSY 0 and
advances the counter; the engine is then that of the command's meaning at the start (20_memory.md R76; 30_encoding.md R98;
70_reset_and_hazards.md R274, R275). The countdown of slots is the model's, log entry 1. -/
def Obligations.WaitEndsWithTheCompletion : Prop :=
  ∀ (s u : State) (p : Word) (n : Nat), s.rst = [] → s.engine.phase = .busy p n →
    s.program[s.pc]? = some 0x21000000001 → exec (decodeCmd p) s = .next u →
    (∃ t, Sys2Proof.core.run (n + 1) s = .next t ∧ t.engine = u.engine ∧ t.pc = s.pc) ∧
    ∃ t, Sys2Proof.core.run (n + 2) s = .next t ∧ t.engine = u.engine ∧ t.pc = s.pc + 1 ∧ t.program = s.program

/-- `irq` rises only at a completion with IRQ_EN set or at a write of IRQ_EN while DONE is set, and falls only at a W1C of
DONE, an accept, a write that clears IRQ_EN, or a reset (60_exceptions.md R227). -/
def Obligations.IrqRisesAndFallsOnlyAsListed : Prop :=
  ∀ s t : State, step s = .next t →
    (s.engine.irq = false → t.engine.irq = true →
      (∃ c u, nextMove s = .run c u ∧ c.isCmdWord = true ∧ s.engine.irqEn = true) ∨
      ∃ v u, nextMove s = .run (.wr 0x08 v) u ∧ v[0] = true ∧ s.engine.done = true) ∧
    (s.engine.irq = true → t.engine.irq = false →
      (∃ v u, nextMove s = .run (.wr 0x10 v) u ∧ v[1] = true) ∨
      (∃ v u, nextMove s = .run (.wr 0x0C v) u ∧ s.engine.phase = .idle) ∨
      (∃ v u, nextMove s = .run (.wr 0x08 v) u ∧ (v[0] = false ∨ v[1] = true)) ∨ ∃ u, nextMove s = .hardReset u)
end

