-- ==== Sys2Proof/Laws/Lanes.lean ====
section
/-! SUPPORT. Byte lanes and load tracking: read after write of a word, what a host write leaves alone, and that every
operation on a tracked field keeps "a word not loaded is 0". -/

namespace Sys2Proof.Machine

theorem byteAt_of_lt {n : Nat} (b : ByteStr n) {j : Nat} (h : j < n) : byteAt b j = b[j] := by simp [byteAt, h]

theorem byteAt_of_ge {n : Nat} (b : ByteStr n) {j : Nat} (h : n ≤ j) : byteAt b j = 0 := by
  simp [byteAt, Nat.not_lt.mpr h]

@[simp] theorem byteAt_zeroBytes (n j : Nat) : byteAt (zeroBytes n) j = 0 := by
  unfold byteAt zeroBytes; split <;> simp

/-- Two byte strings with equal bytes are equal. -/
theorem ByteStr.ext_byteAt {n : Nat} {a b : ByteStr n} (h : ∀ j < n, byteAt a j = byteAt b j) : a = b := by
  ext j hj : 1
  simpa [byteAt, hj] using h j hj

@[simp] theorem byteAt_ofFn {n : Nat} (f : Fin n → Byte) (j : Nat) :
    byteAt (Vector.ofFn f) j = if h : j < n then f ⟨j, h⟩ else 0 := by
  unfold byteAt; split <;> simp

/-- The bytes after a word write: the lanes of the value in word `w`, the old bytes elsewhere (20_memory.md R66). -/
theorem byteAt_setWord {n : Nat} (b : ByteStr n) (w : Nat) (v : Word) (j : Nat) :
    byteAt (setWord b w v) j = if j < n ∧ j / 4 = w then lane v (j % 4) else byteAt b j := by
  by_cases hj : j < n <;> by_cases hw : j / 4 = w <;> simp [setWord, byteAt, hj, hw]

/-- The four lanes of a word put together are the word. -/
theorem lanes_append (v : Word) : (lane v 0 ++ lane v 1 ++ lane v 2 ++ lane v 3 : BitVec 32) = v := by
  apply BitVec.eq_of_getLsbD_eq
  intro i hi
  simp only [lane, BitVec.getLsbD_append, BitVec.getLsbD_extractLsb']
  have : i < 8 ∨ (8 ≤ i ∧ i < 16) ∨ (16 ≤ i ∧ i < 24) ∨ (24 ≤ i ∧ i < 32) := by omega
  rcases this with h | h | h | h
  · simp [h]
  · have h1 : ¬ i < 8 := by omega
    have h2 : i - 8 < 8 := by omega
    have h3 : 8 + (i - 8) = i := by omega
    simp [h1, h2, h3]
  · have h1 : ¬ i < 8 := by omega
    have h2 : ¬ i - 8 < 8 := by omega
    have h4 : i - 8 - 8 < 8 := by omega
    have h3 : 16 + (i - 8 - 8) = i := by omega
    simp [h1, h2, h3, h4]
  · have h1 : ¬ i < 8 := by omega
    have h2 : ¬ i - 8 < 8 := by omega
    have h4 : ¬ i - 8 - 8 < 8 := by omega
    have h5 : i - 8 - 8 - 8 < 8 := by omega
    have h3 : 24 + (i - 8 - 8 - 8) = i := by omega
    simp [h1, h2, h3, h4, h5]

/-- Read after write of the same word of a field that holds the whole word. -/
theorem wordOf_setWord_same {n : Nat} (b : ByteStr n) {w : Nat} (v : Word) (h : 4 * w + 4 ≤ n) :
    wordOf (setWord b w v) w = v := by
  have e (i : Nat) (hi : i < 4) : byteAt (setWord b w v) (4 * w + i) = lane v i := by
    rw [byteAt_setWord, if_pos (by omega), show (4 * w + i) % 4 = i by omega]
  unfold wordOf
  rw [show byteAt (setWord b w v) (4 * w) = lane v 0 from e 0 (by omega), e 1 (by omega), e 2 (by omega),
    e 3 (by omega)]
  exact lanes_append v

/-- A word write leaves every other word alone. -/
theorem wordOf_setWord_other {n : Nat} (b : ByteStr n) {w w' : Nat} (v : Word) (h : w' ≠ w) :
    wordOf (setWord b w v) w' = wordOf b w' := by
  have e (i : Nat) (hi : i < 4) : byteAt (setWord b w v) (4 * w' + i) = byteAt b (4 * w' + i) := by
    rw [byteAt_setWord, if_neg (by omega)]
  unfold wordOf
  rw [show byteAt (setWord b w v) (4 * w') = _ from e 0 (by omega), e 1 (by omega), e 2 (by omega), e 3 (by omega)]
  simp

@[simp] theorem wordOf_zeroBytes (n w : Nat) : wordOf (zeroBytes n) w = 0 := by
  simp [wordOf]

/-! ### Tracked fields -/

@[simp] theorem Tracked.cleared_loaded_16 : (Tracked.cleared 16 4).loaded = false := by decide
@[simp] theorem Tracked.cleared_loaded_8 : (Tracked.cleared 8 2).loaded = false := by decide
@[simp] theorem Tracked.full_loaded {n m : Nat} (b : ByteStr n) : (Tracked.full b : Tracked n m).loaded = true := by
  simp [Tracked.full, Tracked.loaded]

/-- A host write sets mask bit `w` and clears none (R69). -/
theorem Tracked.hostWrite_mask {n m : Nat} (f : Tracked n m) (w : Nat) (v : Word) (i : Nat) :
    (f.hostWrite w v).mask.getLsbD i = (f.mask.getLsbD i || (decide (i < m) && decide (i = w))) := by
  simp only [Tracked.hostWrite, BitVec.getLsbD_or, BitVec.getLsbD_ofNat, Nat.testBit_two_pow]
  by_cases h : i = w
  · subst h; simp
  · simp [h, Ne.symm h]

theorem Tracked.cleared_wf (n m : Nat) : (Tracked.cleared n m).Wf := by
  intro w _ _; simp [Tracked.cleared]

theorem Tracked.full_wf {n m : Nat} (b : ByteStr n) : (Tracked.full b : Tracked n m).Wf := by
  intro w hw h; simp [Tracked.full, hw] at h

/-- A host write keeps "a word not loaded is 0". -/
theorem Tracked.hostWrite_wf {n m : Nat} {f : Tracked n m} (hf : f.Wf) (w : Nat) (v : Word) : (f.hostWrite w v).Wf := by
  intro i hi h
  rw [Tracked.hostWrite_mask] at h
  simp only [Bool.or_eq_false_iff, Bool.and_eq_false_iff, decide_eq_false_iff_not] at h
  have hne : i ≠ w := by rcases h.2 with h' | h' <;> omega
  exact (wordOf_setWord_other f.bytes v hne).trans (hf i hi h.1)

end Sys2Proof.Machine
end

