-- ==== Sys2Proof/Laws/State.lean ====
section
/-! SUPPORT. One lemma per field per named update of the state, each true by rfl, so that no proof unfolds a record
update. -/

namespace Sys2Proof.Machine

/-! ### State.resetEngine -/

@[simp] theorem State.resetEngine_engine (s : State) : s.resetEngine.engine = Engine.reset := rfl
@[simp] theorem State.resetEngine_program (s : State) : s.resetEngine.program = s.program := rfl
@[simp] theorem State.resetEngine_pc (s : State) : s.resetEngine.pc = s.pc := rfl
@[simp] theorem State.resetEngine_results (s : State) : s.resetEngine.results = s.results := rfl
@[simp] theorem State.resetEngine_draws (s : State) : s.resetEngine.draws = s.draws := rfl
@[simp] theorem State.resetEngine_rst (s : State) : s.resetEngine.rst = s.rst := rfl

/-! ### State.advance -/

@[simp] theorem State.advance_engine (s : State) : s.advance.engine = s.engine := rfl
@[simp] theorem State.advance_program (s : State) : s.advance.program = s.program := rfl
@[simp] theorem State.advance_pc (s : State) : s.advance.pc = s.pc + 1 := rfl
@[simp] theorem State.advance_results (s : State) : s.advance.results = s.results := rfl
@[simp] theorem State.advance_draws (s : State) : s.advance.draws = s.draws := rfl
@[simp] theorem State.advance_rst (s : State) : s.advance.rst = s.rst := rfl

/-! ### State.record -/

@[simp] theorem State.record_engine (s : State) (o : BitVec 8) (v : Word) : (s.record o v).engine = s.engine := rfl
@[simp] theorem State.record_program (s : State) (o : BitVec 8) (v : Word) : (s.record o v).program = s.program := rfl
@[simp] theorem State.record_pc (s : State) (o : BitVec 8) (v : Word) : (s.record o v).pc = s.pc := rfl
@[simp] theorem State.record_results (s : State) (o : BitVec 8) (v : Word) : (s.record o v).results = ⟨s.pc, o, v⟩ :: s.results := rfl
@[simp] theorem State.record_draws (s : State) (o : BitVec 8) (v : Word) : (s.record o v).draws = s.draws := rfl
@[simp] theorem State.record_rst (s : State) (o : BitVec 8) (v : Word) : (s.record o v).rst = s.rst := rfl

/-! ### State.accept -/

@[simp] theorem State.accept_engine (s : State) (p : Word) : (s.accept p).engine = s.engine.accept p (Config.cmdDuration s.draws - 1) := rfl
@[simp] theorem State.accept_program (s : State) (p : Word) : (s.accept p).program = s.program := rfl
@[simp] theorem State.accept_pc (s : State) (p : Word) : (s.accept p).pc = s.pc := rfl
@[simp] theorem State.accept_results (s : State) (p : Word) : (s.accept p).results = s.results := rfl
@[simp] theorem State.accept_draws (s : State) (p : Word) : (s.accept p).draws = s.draws + 1 := rfl
@[simp] theorem State.accept_rst (s : State) (p : Word) : (s.accept p).rst = s.rst := rfl

/-! ### State.loadProgram -/

@[simp] theorem State.loadProgram_engine (s : State) (p : List TxWord) : (s.loadProgram p).engine = s.engine := rfl
@[simp] theorem State.loadProgram_program (s : State) (p : List TxWord) : (s.loadProgram p).program = p := rfl
@[simp] theorem State.loadProgram_pc (s : State) (p : List TxWord) : (s.loadProgram p).pc = 0 := rfl
@[simp] theorem State.loadProgram_results (s : State) (p : List TxWord) : (s.loadProgram p).results = [] := rfl
@[simp] theorem State.loadProgram_draws (s : State) (p : List TxWord) : (s.loadProgram p).draws = s.draws := rfl
@[simp] theorem State.loadProgram_rst (s : State) (p : List TxWord) : (s.loadProgram p).rst = s.rst := rfl

/-! ### Engine.accept -/

@[simp] theorem Engine.accept_irqEn (e : Engine) (p : Word) (n : Nat) : (e.accept p n).irqEn = e.irqEn := rfl
@[simp] theorem Engine.accept_phase (e : Engine) (p : Word) (n : Nat) : (e.accept p n).phase = .busy p n := rfl
@[simp] theorem Engine.accept_done (e : Engine) (p : Word) (n : Nat) : (e.accept p n).done = false := rfl
@[simp] theorem Engine.accept_err (e : Engine) (p : Word) (n : Nat) : (e.accept p n).err = false := rfl
@[simp] theorem Engine.accept_errcode (e : Engine) (p : Word) (n : Nat) : (e.accept p n).errcode = .none := rfl
@[simp] theorem Engine.accept_werr (e : Engine) (p : Word) (n : Nat) : (e.accept p n).werr = e.werr := rfl
@[simp] theorem Engine.accept_resstarValid (e : Engine) (p : Word) (n : Nat) : (e.accept p n).resstarValid = e.resstarValid := rfl
@[simp] theorem Engine.accept_sqnValid (e : Engine) (p : Word) (n : Nat) : (e.accept p n).sqnValid = e.sqnValid := rfl
@[simp] theorem Engine.accept_macOk (e : Engine) (p : Word) (n : Nat) : (e.accept p n).macOk = e.macOk := rfl
@[simp] theorem Engine.accept_mcc (e : Engine) (p : Word) (n : Nat) : (e.accept p n).mcc = e.mcc := rfl
@[simp] theorem Engine.accept_mnc (e : Engine) (p : Word) (n : Nat) : (e.accept p n).mnc = e.mnc := rfl
@[simp] theorem Engine.accept_resLen (e : Engine) (p : Word) (n : Nat) : (e.accept p n).resLen = e.resLen := rfl
@[simp] theorem Engine.accept_variant (e : Engine) (p : Word) (n : Nat) : (e.accept p n).variant = e.variant := rfl
@[simp] theorem Engine.accept_ndig (e : Engine) (p : Word) (n : Nat) : (e.accept p n).ndig = e.ndig := rfl
@[simp] theorem Engine.accept_fill (e : Engine) (p : Word) (n : Nat) : (e.accept p n).fill = e.fill := rfl
@[simp] theorem Engine.accept_k (e : Engine) (p : Word) (n : Nat) : (e.accept p n).k = e.k := rfl
@[simp] theorem Engine.accept_opc (e : Engine) (p : Word) (n : Nat) : (e.accept p n).opc = e.opc := rfl
@[simp] theorem Engine.accept_rand (e : Engine) (p : Word) (n : Nat) : (e.accept p n).rand = e.rand := rfl
@[simp] theorem Engine.accept_autn (e : Engine) (p : Word) (n : Nat) : (e.accept p n).autn = e.autn := rfl
@[simp] theorem Engine.accept_res (e : Engine) (p : Word) (n : Nat) : (e.accept p n).res = e.res := rfl
@[simp] theorem Engine.accept_ck (e : Engine) (p : Word) (n : Nat) : (e.accept p n).ck = e.ck := rfl
@[simp] theorem Engine.accept_ik (e : Engine) (p : Word) (n : Nat) : (e.accept p n).ik = e.ik := rfl
@[simp] theorem Engine.accept_resstar (e : Engine) (p : Word) (n : Nat) : (e.accept p n).resstar = e.resstar := rfl
@[simp] theorem Engine.accept_sqn (e : Engine) (p : Word) (n : Nat) : (e.accept p n).sqn = e.sqn := rfl
@[simp] theorem Engine.accept_maca (e : Engine) (p : Word) (n : Nat) : (e.accept p n).maca = e.maca := rfl
@[simp] theorem Engine.accept_bcdText (e : Engine) (p : Word) (n : Nat) : (e.accept p n).bcdText = e.bcdText := rfl
@[simp] theorem Engine.accept_bcdPacked (e : Engine) (p : Word) (n : Nat) : (e.accept p n).bcdPacked = e.bcdPacked := rfl

/-! ### Engine.report -/

@[simp] theorem Engine.report_irqEn (e : Engine) (c : ErrCode) : (e.report c).irqEn = e.irqEn := rfl
@[simp] theorem Engine.report_phase (e : Engine) (c : ErrCode) : (e.report c).phase = .idle := rfl
@[simp] theorem Engine.report_done (e : Engine) (c : ErrCode) : (e.report c).done = true := rfl
@[simp] theorem Engine.report_err (e : Engine) (c : ErrCode) : (e.report c).err = (c != .none) := rfl
@[simp] theorem Engine.report_errcode (e : Engine) (c : ErrCode) : (e.report c).errcode = c := rfl
@[simp] theorem Engine.report_werr (e : Engine) (c : ErrCode) : (e.report c).werr = e.werr := rfl
@[simp] theorem Engine.report_resstarValid (e : Engine) (c : ErrCode) : (e.report c).resstarValid = e.resstarValid := rfl
@[simp] theorem Engine.report_sqnValid (e : Engine) (c : ErrCode) : (e.report c).sqnValid = e.sqnValid := rfl
@[simp] theorem Engine.report_macOk (e : Engine) (c : ErrCode) : (e.report c).macOk = e.macOk := rfl
@[simp] theorem Engine.report_mcc (e : Engine) (c : ErrCode) : (e.report c).mcc = e.mcc := rfl
@[simp] theorem Engine.report_mnc (e : Engine) (c : ErrCode) : (e.report c).mnc = e.mnc := rfl
@[simp] theorem Engine.report_resLen (e : Engine) (c : ErrCode) : (e.report c).resLen = e.resLen := rfl
@[simp] theorem Engine.report_variant (e : Engine) (c : ErrCode) : (e.report c).variant = e.variant := rfl
@[simp] theorem Engine.report_ndig (e : Engine) (c : ErrCode) : (e.report c).ndig = e.ndig := rfl
@[simp] theorem Engine.report_fill (e : Engine) (c : ErrCode) : (e.report c).fill = e.fill := rfl
@[simp] theorem Engine.report_k (e : Engine) (c : ErrCode) : (e.report c).k = e.k := rfl
@[simp] theorem Engine.report_opc (e : Engine) (c : ErrCode) : (e.report c).opc = e.opc := rfl
@[simp] theorem Engine.report_rand (e : Engine) (c : ErrCode) : (e.report c).rand = e.rand := rfl
@[simp] theorem Engine.report_autn (e : Engine) (c : ErrCode) : (e.report c).autn = e.autn := rfl
@[simp] theorem Engine.report_res (e : Engine) (c : ErrCode) : (e.report c).res = e.res := rfl
@[simp] theorem Engine.report_ck (e : Engine) (c : ErrCode) : (e.report c).ck = e.ck := rfl
@[simp] theorem Engine.report_ik (e : Engine) (c : ErrCode) : (e.report c).ik = e.ik := rfl
@[simp] theorem Engine.report_resstar (e : Engine) (c : ErrCode) : (e.report c).resstar = e.resstar := rfl
@[simp] theorem Engine.report_sqn (e : Engine) (c : ErrCode) : (e.report c).sqn = e.sqn := rfl
@[simp] theorem Engine.report_maca (e : Engine) (c : ErrCode) : (e.report c).maca = e.maca := rfl
@[simp] theorem Engine.report_bcdText (e : Engine) (c : ErrCode) : (e.report c).bcdText = e.bcdText := rfl
@[simp] theorem Engine.report_bcdPacked (e : Engine) (c : ErrCode) : (e.report c).bcdPacked = e.bcdPacked := rfl

/-! ### Engine.statusWrite -/

@[simp] theorem Engine.statusWrite_irqEn (e : Engine) (v : Word) : (e.statusWrite v).irqEn = e.irqEn := rfl
@[simp] theorem Engine.statusWrite_phase (e : Engine) (v : Word) : (e.statusWrite v).phase = e.phase := rfl
@[simp] theorem Engine.statusWrite_done (e : Engine) (v : Word) : (e.statusWrite v).done = (e.done && !v[1]) := rfl
@[simp] theorem Engine.statusWrite_err (e : Engine) (v : Word) : (e.statusWrite v).err = (e.err && !v[2]) := rfl
@[simp] theorem Engine.statusWrite_errcode (e : Engine) (v : Word) : (e.statusWrite v).errcode = (if v[2] then .none else e.errcode) := rfl
@[simp] theorem Engine.statusWrite_werr (e : Engine) (v : Word) : (e.statusWrite v).werr = (e.werr && !v[3]) := rfl
@[simp] theorem Engine.statusWrite_resstarValid (e : Engine) (v : Word) : (e.statusWrite v).resstarValid = e.resstarValid := rfl
@[simp] theorem Engine.statusWrite_sqnValid (e : Engine) (v : Word) : (e.statusWrite v).sqnValid = e.sqnValid := rfl
@[simp] theorem Engine.statusWrite_macOk (e : Engine) (v : Word) : (e.statusWrite v).macOk = e.macOk := rfl
@[simp] theorem Engine.statusWrite_mcc (e : Engine) (v : Word) : (e.statusWrite v).mcc = e.mcc := rfl
@[simp] theorem Engine.statusWrite_mnc (e : Engine) (v : Word) : (e.statusWrite v).mnc = e.mnc := rfl
@[simp] theorem Engine.statusWrite_resLen (e : Engine) (v : Word) : (e.statusWrite v).resLen = e.resLen := rfl
@[simp] theorem Engine.statusWrite_variant (e : Engine) (v : Word) : (e.statusWrite v).variant = e.variant := rfl
@[simp] theorem Engine.statusWrite_ndig (e : Engine) (v : Word) : (e.statusWrite v).ndig = e.ndig := rfl
@[simp] theorem Engine.statusWrite_fill (e : Engine) (v : Word) : (e.statusWrite v).fill = e.fill := rfl
@[simp] theorem Engine.statusWrite_k (e : Engine) (v : Word) : (e.statusWrite v).k = e.k := rfl
@[simp] theorem Engine.statusWrite_opc (e : Engine) (v : Word) : (e.statusWrite v).opc = e.opc := rfl
@[simp] theorem Engine.statusWrite_rand (e : Engine) (v : Word) : (e.statusWrite v).rand = e.rand := rfl
@[simp] theorem Engine.statusWrite_autn (e : Engine) (v : Word) : (e.statusWrite v).autn = e.autn := rfl
@[simp] theorem Engine.statusWrite_res (e : Engine) (v : Word) : (e.statusWrite v).res = e.res := rfl
@[simp] theorem Engine.statusWrite_ck (e : Engine) (v : Word) : (e.statusWrite v).ck = e.ck := rfl
@[simp] theorem Engine.statusWrite_ik (e : Engine) (v : Word) : (e.statusWrite v).ik = e.ik := rfl
@[simp] theorem Engine.statusWrite_resstar (e : Engine) (v : Word) : (e.statusWrite v).resstar = e.resstar := rfl
@[simp] theorem Engine.statusWrite_sqn (e : Engine) (v : Word) : (e.statusWrite v).sqn = e.sqn := rfl
@[simp] theorem Engine.statusWrite_maca (e : Engine) (v : Word) : (e.statusWrite v).maca = e.maca := rfl
@[simp] theorem Engine.statusWrite_bcdText (e : Engine) (v : Word) : (e.statusWrite v).bcdText = e.bcdText := rfl
@[simp] theorem Engine.statusWrite_bcdPacked (e : Engine) (v : Word) : (e.statusWrite v).bcdPacked = e.bcdPacked := rfl

/-! ### Engine.clearResstar -/

@[simp] theorem Engine.clearResstar_irqEn (e : Engine) : e.clearResstar.irqEn = e.irqEn := rfl
@[simp] theorem Engine.clearResstar_phase (e : Engine) : e.clearResstar.phase = e.phase := rfl
@[simp] theorem Engine.clearResstar_done (e : Engine) : e.clearResstar.done = e.done := rfl
@[simp] theorem Engine.clearResstar_err (e : Engine) : e.clearResstar.err = e.err := rfl
@[simp] theorem Engine.clearResstar_errcode (e : Engine) : e.clearResstar.errcode = e.errcode := rfl
@[simp] theorem Engine.clearResstar_werr (e : Engine) : e.clearResstar.werr = e.werr := rfl
@[simp] theorem Engine.clearResstar_resstarValid (e : Engine) : e.clearResstar.resstarValid = false := rfl
@[simp] theorem Engine.clearResstar_sqnValid (e : Engine) : e.clearResstar.sqnValid = e.sqnValid := rfl
@[simp] theorem Engine.clearResstar_macOk (e : Engine) : e.clearResstar.macOk = e.macOk := rfl
@[simp] theorem Engine.clearResstar_mcc (e : Engine) : e.clearResstar.mcc = e.mcc := rfl
@[simp] theorem Engine.clearResstar_mnc (e : Engine) : e.clearResstar.mnc = e.mnc := rfl
@[simp] theorem Engine.clearResstar_resLen (e : Engine) : e.clearResstar.resLen = e.resLen := rfl
@[simp] theorem Engine.clearResstar_variant (e : Engine) : e.clearResstar.variant = e.variant := rfl
@[simp] theorem Engine.clearResstar_ndig (e : Engine) : e.clearResstar.ndig = e.ndig := rfl
@[simp] theorem Engine.clearResstar_fill (e : Engine) : e.clearResstar.fill = e.fill := rfl
@[simp] theorem Engine.clearResstar_k (e : Engine) : e.clearResstar.k = e.k := rfl
@[simp] theorem Engine.clearResstar_opc (e : Engine) : e.clearResstar.opc = e.opc := rfl
@[simp] theorem Engine.clearResstar_rand (e : Engine) : e.clearResstar.rand = e.rand := rfl
@[simp] theorem Engine.clearResstar_autn (e : Engine) : e.clearResstar.autn = e.autn := rfl
@[simp] theorem Engine.clearResstar_res (e : Engine) : e.clearResstar.res = e.res := rfl
@[simp] theorem Engine.clearResstar_ck (e : Engine) : e.clearResstar.ck = e.ck := rfl
@[simp] theorem Engine.clearResstar_ik (e : Engine) : e.clearResstar.ik = e.ik := rfl
@[simp] theorem Engine.clearResstar_resstar (e : Engine) : e.clearResstar.resstar = zeroBytes 16 := rfl
@[simp] theorem Engine.clearResstar_sqn (e : Engine) : e.clearResstar.sqn = e.sqn := rfl
@[simp] theorem Engine.clearResstar_maca (e : Engine) : e.clearResstar.maca = e.maca := rfl
@[simp] theorem Engine.clearResstar_bcdText (e : Engine) : e.clearResstar.bcdText = e.bcdText := rfl
@[simp] theorem Engine.clearResstar_bcdPacked (e : Engine) : e.clearResstar.bcdPacked = e.bcdPacked := rfl

/-! ### Engine.deriveResstar -/

@[simp] theorem Engine.deriveResstar_irqEn (e : Engine) : e.deriveResstar.irqEn = e.irqEn := rfl
@[simp] theorem Engine.deriveResstar_phase (e : Engine) : e.deriveResstar.phase = e.phase := rfl
@[simp] theorem Engine.deriveResstar_done (e : Engine) : e.deriveResstar.done = e.done := rfl
@[simp] theorem Engine.deriveResstar_err (e : Engine) : e.deriveResstar.err = e.err := rfl
@[simp] theorem Engine.deriveResstar_errcode (e : Engine) : e.deriveResstar.errcode = e.errcode := rfl
@[simp] theorem Engine.deriveResstar_werr (e : Engine) : e.deriveResstar.werr = e.werr := rfl
@[simp] theorem Engine.deriveResstar_resstarValid (e : Engine) : e.deriveResstar.resstarValid = true := rfl
@[simp] theorem Engine.deriveResstar_sqnValid (e : Engine) : e.deriveResstar.sqnValid = e.sqnValid := rfl
@[simp] theorem Engine.deriveResstar_macOk (e : Engine) : e.deriveResstar.macOk = e.macOk := rfl
@[simp] theorem Engine.deriveResstar_mcc (e : Engine) : e.deriveResstar.mcc = e.mcc := rfl
@[simp] theorem Engine.deriveResstar_mnc (e : Engine) : e.deriveResstar.mnc = e.mnc := rfl
@[simp] theorem Engine.deriveResstar_resLen (e : Engine) : e.deriveResstar.resLen = e.resLen := rfl
@[simp] theorem Engine.deriveResstar_variant (e : Engine) : e.deriveResstar.variant = e.variant := rfl
@[simp] theorem Engine.deriveResstar_ndig (e : Engine) : e.deriveResstar.ndig = e.ndig := rfl
@[simp] theorem Engine.deriveResstar_fill (e : Engine) : e.deriveResstar.fill = e.fill := rfl
@[simp] theorem Engine.deriveResstar_k (e : Engine) : e.deriveResstar.k = e.k := rfl
@[simp] theorem Engine.deriveResstar_opc (e : Engine) : e.deriveResstar.opc = e.opc := rfl
@[simp] theorem Engine.deriveResstar_rand (e : Engine) : e.deriveResstar.rand = e.rand := rfl
@[simp] theorem Engine.deriveResstar_autn (e : Engine) : e.deriveResstar.autn = e.autn := rfl
@[simp] theorem Engine.deriveResstar_res (e : Engine) : e.deriveResstar.res = e.res := rfl
@[simp] theorem Engine.deriveResstar_ck (e : Engine) : e.deriveResstar.ck = e.ck := rfl
@[simp] theorem Engine.deriveResstar_ik (e : Engine) : e.deriveResstar.ik = e.ik := rfl
@[simp] theorem Engine.deriveResstar_resstar (e : Engine) : e.deriveResstar.resstar = resstarFn e.mcc e.mnc e.rand.bytes (e.res.bytes.toList.take e.resLen.toNat) e.ck.bytes e.ik.bytes := rfl
@[simp] theorem Engine.deriveResstar_sqn (e : Engine) : e.deriveResstar.sqn = e.sqn := rfl
@[simp] theorem Engine.deriveResstar_maca (e : Engine) : e.deriveResstar.maca = e.maca := rfl
@[simp] theorem Engine.deriveResstar_bcdText (e : Engine) : e.deriveResstar.bcdText = e.bcdText := rfl
@[simp] theorem Engine.deriveResstar_bcdPacked (e : Engine) : e.deriveResstar.bcdPacked = e.bcdPacked := rfl

/-! ### Engine.akaClear -/

@[simp] theorem Engine.akaClear_irqEn (e : Engine) : e.akaClear.irqEn = e.irqEn := rfl
@[simp] theorem Engine.akaClear_phase (e : Engine) : e.akaClear.phase = e.phase := rfl
@[simp] theorem Engine.akaClear_done (e : Engine) : e.akaClear.done = e.done := rfl
@[simp] theorem Engine.akaClear_err (e : Engine) : e.akaClear.err = e.err := rfl
@[simp] theorem Engine.akaClear_errcode (e : Engine) : e.akaClear.errcode = e.errcode := rfl
@[simp] theorem Engine.akaClear_werr (e : Engine) : e.akaClear.werr = e.werr := rfl
@[simp] theorem Engine.akaClear_resstarValid (e : Engine) : e.akaClear.resstarValid = false := rfl
@[simp] theorem Engine.akaClear_sqnValid (e : Engine) : e.akaClear.sqnValid = false := rfl
@[simp] theorem Engine.akaClear_macOk (e : Engine) : e.akaClear.macOk = false := rfl
@[simp] theorem Engine.akaClear_mcc (e : Engine) : e.akaClear.mcc = e.mcc := rfl
@[simp] theorem Engine.akaClear_mnc (e : Engine) : e.akaClear.mnc = e.mnc := rfl
@[simp] theorem Engine.akaClear_resLen (e : Engine) : e.akaClear.resLen = e.resLen := rfl
@[simp] theorem Engine.akaClear_variant (e : Engine) : e.akaClear.variant = e.variant := rfl
@[simp] theorem Engine.akaClear_ndig (e : Engine) : e.akaClear.ndig = e.ndig := rfl
@[simp] theorem Engine.akaClear_fill (e : Engine) : e.akaClear.fill = e.fill := rfl
@[simp] theorem Engine.akaClear_k (e : Engine) : e.akaClear.k = e.k := rfl
@[simp] theorem Engine.akaClear_opc (e : Engine) : e.akaClear.opc = e.opc := rfl
@[simp] theorem Engine.akaClear_rand (e : Engine) : e.akaClear.rand = e.rand := rfl
@[simp] theorem Engine.akaClear_autn (e : Engine) : e.akaClear.autn = e.autn := rfl
@[simp] theorem Engine.akaClear_res (e : Engine) : e.akaClear.res = e.res := rfl
@[simp] theorem Engine.akaClear_ck (e : Engine) : e.akaClear.ck = e.ck := rfl
@[simp] theorem Engine.akaClear_ik (e : Engine) : e.akaClear.ik = e.ik := rfl
@[simp] theorem Engine.akaClear_resstar (e : Engine) : e.akaClear.resstar = zeroBytes 16 := rfl
@[simp] theorem Engine.akaClear_sqn (e : Engine) : e.akaClear.sqn = zeroBytes 6 := rfl
@[simp] theorem Engine.akaClear_maca (e : Engine) : e.akaClear.maca = zeroBytes 8 := rfl
@[simp] theorem Engine.akaClear_bcdText (e : Engine) : e.akaClear.bcdText = e.bcdText := rfl
@[simp] theorem Engine.akaClear_bcdPacked (e : Engine) : e.akaClear.bcdPacked = e.bcdPacked := rfl

/-! ### Engine.wipe -/

@[simp] theorem Engine.wipe_irqEn (e : Engine) : e.wipe.irqEn = e.irqEn := rfl
@[simp] theorem Engine.wipe_phase (e : Engine) : e.wipe.phase = e.phase := rfl
@[simp] theorem Engine.wipe_done (e : Engine) : e.wipe.done = e.done := rfl
@[simp] theorem Engine.wipe_err (e : Engine) : e.wipe.err = e.err := rfl
@[simp] theorem Engine.wipe_errcode (e : Engine) : e.wipe.errcode = e.errcode := rfl
@[simp] theorem Engine.wipe_werr (e : Engine) : e.wipe.werr = e.werr := rfl
@[simp] theorem Engine.wipe_resstarValid (e : Engine) : e.wipe.resstarValid = e.resstarValid := rfl
@[simp] theorem Engine.wipe_sqnValid (e : Engine) : e.wipe.sqnValid = e.sqnValid := rfl
@[simp] theorem Engine.wipe_macOk (e : Engine) : e.wipe.macOk = e.macOk := rfl
@[simp] theorem Engine.wipe_mcc (e : Engine) : e.wipe.mcc = e.mcc := rfl
@[simp] theorem Engine.wipe_mnc (e : Engine) : e.wipe.mnc = e.mnc := rfl
@[simp] theorem Engine.wipe_resLen (e : Engine) : e.wipe.resLen = 0 := rfl
@[simp] theorem Engine.wipe_variant (e : Engine) : e.wipe.variant = e.variant := rfl
@[simp] theorem Engine.wipe_ndig (e : Engine) : e.wipe.ndig = e.ndig := rfl
@[simp] theorem Engine.wipe_fill (e : Engine) : e.wipe.fill = e.fill := rfl
@[simp] theorem Engine.wipe_k (e : Engine) : e.wipe.k = e.k := rfl
@[simp] theorem Engine.wipe_opc (e : Engine) : e.wipe.opc = e.opc := rfl
@[simp] theorem Engine.wipe_rand (e : Engine) : e.wipe.rand = e.rand := rfl
@[simp] theorem Engine.wipe_autn (e : Engine) : e.wipe.autn = e.autn := rfl
@[simp] theorem Engine.wipe_res (e : Engine) : e.wipe.res = Tracked.cleared 16 4 := rfl
@[simp] theorem Engine.wipe_ck (e : Engine) : e.wipe.ck = Tracked.cleared 16 4 := rfl
@[simp] theorem Engine.wipe_ik (e : Engine) : e.wipe.ik = Tracked.cleared 16 4 := rfl
@[simp] theorem Engine.wipe_resstar (e : Engine) : e.wipe.resstar = e.resstar := rfl
@[simp] theorem Engine.wipe_sqn (e : Engine) : e.wipe.sqn = e.sqn := rfl
@[simp] theorem Engine.wipe_maca (e : Engine) : e.wipe.maca = e.maca := rfl
@[simp] theorem Engine.wipe_bcdText (e : Engine) : e.wipe.bcdText = e.bcdText := rfl
@[simp] theorem Engine.wipe_bcdPacked (e : Engine) : e.wipe.bcdPacked = e.bcdPacked := rfl

/-! ### Engine.installVectors -/

@[simp] theorem Engine.installVectors_irqEn (e : Engine) (v : VectorsReply) : (e.installVectors v).irqEn = e.irqEn := rfl
@[simp] theorem Engine.installVectors_phase (e : Engine) (v : VectorsReply) : (e.installVectors v).phase = e.phase := rfl
@[simp] theorem Engine.installVectors_done (e : Engine) (v : VectorsReply) : (e.installVectors v).done = e.done := rfl
@[simp] theorem Engine.installVectors_err (e : Engine) (v : VectorsReply) : (e.installVectors v).err = e.err := rfl
@[simp] theorem Engine.installVectors_errcode (e : Engine) (v : VectorsReply) : (e.installVectors v).errcode = e.errcode := rfl
@[simp] theorem Engine.installVectors_werr (e : Engine) (v : VectorsReply) : (e.installVectors v).werr = e.werr := rfl
@[simp] theorem Engine.installVectors_resstarValid (e : Engine) (v : VectorsReply) : (e.installVectors v).resstarValid = e.resstarValid := rfl
@[simp] theorem Engine.installVectors_sqnValid (e : Engine) (v : VectorsReply) : (e.installVectors v).sqnValid = e.sqnValid := rfl
@[simp] theorem Engine.installVectors_macOk (e : Engine) (v : VectorsReply) : (e.installVectors v).macOk = true := rfl
@[simp] theorem Engine.installVectors_mcc (e : Engine) (v : VectorsReply) : (e.installVectors v).mcc = e.mcc := rfl
@[simp] theorem Engine.installVectors_mnc (e : Engine) (v : VectorsReply) : (e.installVectors v).mnc = e.mnc := rfl
@[simp] theorem Engine.installVectors_resLen (e : Engine) (v : VectorsReply) : (e.installVectors v).resLen = v.resLen := rfl
@[simp] theorem Engine.installVectors_variant (e : Engine) (v : VectorsReply) : (e.installVectors v).variant = e.variant := rfl
@[simp] theorem Engine.installVectors_ndig (e : Engine) (v : VectorsReply) : (e.installVectors v).ndig = e.ndig := rfl
@[simp] theorem Engine.installVectors_fill (e : Engine) (v : VectorsReply) : (e.installVectors v).fill = e.fill := rfl
@[simp] theorem Engine.installVectors_k (e : Engine) (v : VectorsReply) : (e.installVectors v).k = e.k := rfl
@[simp] theorem Engine.installVectors_opc (e : Engine) (v : VectorsReply) : (e.installVectors v).opc = e.opc := rfl
@[simp] theorem Engine.installVectors_rand (e : Engine) (v : VectorsReply) : (e.installVectors v).rand = e.rand := rfl
@[simp] theorem Engine.installVectors_autn (e : Engine) (v : VectorsReply) : (e.installVectors v).autn = e.autn := rfl
@[simp] theorem Engine.installVectors_res (e : Engine) (v : VectorsReply) : (e.installVectors v).res = .full (keepFirst v.res v.resLen.toNat) := rfl
@[simp] theorem Engine.installVectors_ck (e : Engine) (v : VectorsReply) : (e.installVectors v).ck = .full v.ck := rfl
@[simp] theorem Engine.installVectors_ik (e : Engine) (v : VectorsReply) : (e.installVectors v).ik = .full v.ik := rfl
@[simp] theorem Engine.installVectors_resstar (e : Engine) (v : VectorsReply) : (e.installVectors v).resstar = e.resstar := rfl
@[simp] theorem Engine.installVectors_sqn (e : Engine) (v : VectorsReply) : (e.installVectors v).sqn = e.sqn := rfl
@[simp] theorem Engine.installVectors_maca (e : Engine) (v : VectorsReply) : (e.installVectors v).maca = e.maca := rfl
@[simp] theorem Engine.installVectors_bcdText (e : Engine) (v : VectorsReply) : (e.installVectors v).bcdText = e.bcdText := rfl
@[simp] theorem Engine.installVectors_bcdPacked (e : Engine) (v : VectorsReply) : (e.installVectors v).bcdPacked = e.bcdPacked := rfl

end Sys2Proof.Machine
end

