-- ==== Sys2Proof/Laws/Ops.lean ====
section
/-! SUPPORT. One lemma per shared operation that says what it can do: reads, writes, accesses, completion, the choice of
the next move, and the three host transactions. -/

namespace Sys2Proof.Machine

/-! ### The register map (10_state.md R20) -/

@[simp] theorem regAt_id : regAt 0x00#8 = .id := rfl
@[simp] theorem regAt_version : regAt 0x04#8 = .version := rfl
@[simp] theorem regAt_ctrl : regAt 0x08#8 = .ctrl := rfl
@[simp] theorem regAt_cmd : regAt 0x0C#8 = .cmd := rfl
@[simp] theorem regAt_status : regAt 0x10#8 = .status := rfl
@[simp] theorem regAt_loaded : regAt 0x14#8 = .loaded := rfl
@[simp] theorem regAt_mcc : regAt 0x18#8 = .mcc := rfl
@[simp] theorem regAt_mnc : regAt 0x1C#8 = .mnc := rfl
@[simp] theorem regAt_resLen : regAt 0x20#8 = .resLen := rfl
@[simp] theorem regAt_variant : regAt 0x24#8 = .variant := rfl
@[simp] theorem regAt_bcdCtrl : regAt 0x28#8 = .bcdCtrl := rfl
@[simp] theorem regAt_reserved : regAt 0x2C#8 = .reserved := rfl

/-- Word `w` of a field is at its base plus `4w`, aligned. -/
theorem regAt_wordOff (f : Field) {w : Nat} (h : w < fieldWords f) :
    regAt (wordOff f w) = .data f w ∧ (wordOff f w).toNat % 4 = 0 := by
  have all : ∀ w < 4, w < fieldWords f → regAt (wordOff f w) = .data f w ∧ (wordOff f w).toNat % 4 = 0 := by
    cases f <;> decide
  exact all w (Nat.lt_of_lt_of_le h (by cases f <;> decide)) h

/-- Only its own offset selects CTRL. -/
theorem regAt_eq_ctrl {off : BitVec 8} (ha : off.toNat % 4 = 0) : regAt off = .ctrl ↔ off = 0x08 := by
  have all : ∀ n < 256, n % 4 = 0 → (regAt (BitVec.ofNat 8 n) = .ctrl ↔ BitVec.ofNat 8 n = 0x08) := by decide +kernel
  simpa using all off.toNat off.isLt ha

/-- Only its own offset selects CMD. -/
theorem regAt_eq_cmd {off : BitVec 8} (ha : off.toNat % 4 = 0) : regAt off = .cmd ↔ off = 0x0C := by
  have all : ∀ n < 256, n % 4 = 0 → (regAt (BitVec.ofNat 8 n) = .cmd ↔ BitVec.ofNat 8 n = 0x0C) := by decide +kernel
  simpa using all off.toNat off.isLt ha

/-- Only its own offset selects STATUS. -/
theorem regAt_eq_status {off : BitVec 8} (ha : off.toNat % 4 = 0) : regAt off = .status ↔ off = 0x10 := by
  have all : ∀ n < 256, n % 4 = 0 → (regAt (BitVec.ofNat 8 n) = .status ↔ BitVec.ofNat 8 n = 0x10) := by decide +kernel
  simpa using all off.toNat off.isLt ha

/-! ### Reads -/

/-- A read changes nothing but the draw counter, and returns the register's value outside the unspecified bits (R65,
R270). -/
theorem State.readReg_cases (s : State) (r : Reg) :
    (s.readReg r = (s.engine.readReg r, s)) ∨
      ∃ p n, s.engine.phase = .busy p n ∧ unspecifiedBits (decodeCmd p) r ≠ 0 ∧
        s.readReg r =
          ((s.engine.readReg r &&& ~~~unspecifiedBits (decodeCmd p) r) |||
            (Config.freeRead s.draws &&& unspecifiedBits (decodeCmd p) r), { s with draws := s.draws + 1 }) := by
  unfold State.readReg
  split
  · exact .inl rfl
  · rename_i p n h
    by_cases hm : unspecifiedBits (decodeCmd p) r = 0
    · left; simp [hm]
    · exact .inr ⟨p, n, h, hm, if_neg hm⟩

theorem State.readReg_idle {s : State} (h : s.engine.phase = .idle) (r : Reg) :
    s.readReg r = (s.engine.readReg r, s) := by simp [State.readReg, h]

/-- The state after a read is the state before it but for the draw counter. -/
theorem State.readReg_state (s : State) (r : Reg) : ∃ d, (s.readReg r).2 = { s with draws := d } := by
  rcases s.readReg_cases r with h | ⟨p, n, -, -, h⟩
  · exact ⟨s.draws, by rw [h]⟩
  · exact ⟨s.draws + 1, by rw [h]⟩

/-- A register no pending command makes unspecified reads the same in every phase (R270). -/
theorem State.readReg_quiet {s : State} {r : Reg}
    (h : ∀ p n, s.engine.phase = .busy p n → unspecifiedBits (decodeCmd p) r = 0) :
    s.readReg r = (s.engine.readReg r, s) := by
  rcases s.readReg_cases r with h' | ⟨p, n, hp, hne, -⟩
  · exact h'
  · exact absurd (h p n hp) hne

/-! ### Writes -/

/-- Everything a write of an aligned word can do (R68, R271): reset the engine, set IRQ_EN, clear W1C bits, set WERR,
nothing, accept a command, or store in a register. -/
theorem State.writeReg_cases (s : State) (r : Reg) (v : Word) :
    (r = .ctrl ∧ v[1] = true ∧ s.writeReg r v = s.resetEngine) ∨
    (r = .ctrl ∧ v[1] = false ∧ s.writeReg r v = { s with engine := { s.engine with irqEn := v[0] } }) ∨
    (r = .status ∧ s.writeReg r v = { s with engine := s.engine.statusWrite v }) ∨
    (r ≠ .ctrl ∧ r ≠ .status ∧ s.engine.isBusy = true ∧ regWritable r = true ∧
      s.writeReg r v = { s with engine := { s.engine with werr := true } }) ∨
    (r ≠ .ctrl ∧ r ≠ .status ∧ s.engine.isBusy = true ∧ regWritable r = false ∧ s.writeReg r v = s) ∨
    (r = .cmd ∧ s.engine.phase = .idle ∧ s.writeReg r v = s.accept v) ∨
    (r ≠ .ctrl ∧ r ≠ .status ∧ r ≠ .cmd ∧ s.engine.phase = .idle ∧
      s.writeReg r v = { s with engine := s.engine.storeReg r v }) := by
  by_cases hc : r = .ctrl
  · subst hc
    have hw : s.writeReg .ctrl v =
        if v[1] then s.resetEngine else { s with engine := { s.engine with irqEn := v[0] } } := rfl
    rcases hv : v[1] with _ | _
    · exact .inr (.inl ⟨rfl, rfl, by rw [hw, hv]; rfl⟩)
    · exact .inl ⟨rfl, rfl, by rw [hw, hv]; rfl⟩
  by_cases hs : r = .status
  · subst hs; exact .inr (.inr (.inl ⟨rfl, rfl⟩))
  have hw : s.writeReg r v = (match s.engine.phase with
      | .busy _ _ => if regWritable r then { s with engine := { s.engine with werr := true } } else s
      | .idle => if r = .cmd then s.accept v else { s with engine := s.engine.storeReg r v }) := by
    cases r <;> first | rfl | exact absurd rfl hc | exact absurd rfl hs
  rcases hp : s.engine.phase with _ | ⟨p, n⟩
  · rw [hp] at hw
    by_cases hcmd : r = .cmd
    · exact .inr (.inr (.inr (.inr (.inr (.inl ⟨hcmd, rfl, hw.trans (if_pos hcmd)⟩)))))
    · exact .inr (.inr (.inr (.inr (.inr (.inr ⟨hc, hs, hcmd, rfl, hw.trans (if_neg hcmd)⟩)))))
  · rw [hp] at hw
    have hb : s.engine.isBusy = true := by simp [Engine.isBusy, hp]
    rcases hr : regWritable r with _ | _
    · exact .inr (.inr (.inr (.inr (.inl ⟨hc, hs, hb, rfl, hw.trans (by rw [hr]; rfl)⟩))))
    · exact .inr (.inr (.inr (.inl ⟨hc, hs, hb, rfl, hw.trans (by rw [hr]; rfl)⟩)))

/-- A field write leaves the bytes and the mask of every other field alone (20_memory.md R69). -/
theorem Engine.storeReg_frame (e : Engine) (g f : Field) (w : Nat) (v : Word) (h : f ≠ g) :
    (e.storeReg (.data g w) v).bytesOf f = e.bytesOf f ∧
      ∀ i, (e.storeReg (.data g w) v).maskBit f i = e.maskBit f i := by
  cases g <;> cases f <;> first
    | exact absurd rfl h
    | simp only [Engine.storeReg, Engine.bytesOf, Engine.maskBit, implies_true, and_self]

/-- No write of a register clears a mask bit (R69). -/
theorem Engine.storeReg_maskBit (e : Engine) (r : Reg) (v : Word) (f : Field) (i : Nat)
    (h : e.maskBit f i = true) : (e.storeReg r v).maskBit f i = true := by
  rcases r with _ | _ | _ | _ | _ | _ | _ | _ | _ | _ | _ | ⟨g, w⟩ | _
  case data =>
    by_cases hg : f = g
    · subst hg
      cases f <;> simp only [Engine.storeReg, Engine.maskBit, Tracked.hostWrite_mask, Bool.or_eq_true] at h ⊢ <;>
        first | exact h | exact .inl h
    · rw [(storeReg_frame e g f w v hg).2 i, h]
  all_goals (cases f <;> simpa only [Engine.storeReg, Engine.maskBit] using h)

/-! ### Accesses -/

theorem legalAccess_word (off : BitVec 8) : legalAccess 32 off = true ↔ off.toNat % 4 = 0 := by
  simp [legalAccess]

/-- RD: a fault exactly at a misaligned offset, else the value is recorded and the counter advances. -/
theorem execRd_eq (off : BitVec 8) (s : State) :
    execRd off s = if off.toNat % 4 = 0 then
        .next ((s.readReg (regAt off)).2.record off (s.readReg (regAt off)).1).advance
      else .fault (.busError off) := by
  by_cases h : off.toNat % 4 = 0 <;> simp [execRd, busRead, legalAccess, h]

/-- WR: a fault exactly at a misaligned offset, else the write and the advance. -/
theorem execWr_eq (off : BitVec 8) (v : Word) (s : State) :
    execWr off v s = if off.toNat % 4 = 0 then .next (s.writeReg (regAt off) v).advance
      else .fault (.busError off) := by
  by_cases h : off.toNat % 4 = 0 <;> simp [execWr, busWrite, legalAccess, h]

/-- POLL: as RD, but the counter advances only where the selected bits are all 0. -/
theorem execPoll_eq (off : BitVec 8) (m : Word) (s : State) :
    execPoll off m s = if off.toNat % 4 = 0 then
        .next (if (s.readReg (regAt off)).1 &&& m = 0 then
            ((s.readReg (regAt off)).2.record off (s.readReg (regAt off)).1).advance
          else (s.readReg (regAt off)).2.record off (s.readReg (regAt off)).1)
      else .fault (.busError off) := by
  by_cases h : off.toNat % 4 = 0 <;> simp [execPoll, busRead, legalAccess, h]

/-! ### Completion -/

/-- A completion answers a next state that differs in the engine alone, with the report made (R201, R226). -/
theorem complete_next {r : CmdResult} {s t : State} (h : complete r s = .next t) :
    t = { s with engine := r.engine.report r.code } := by
  simpa [complete] using h.symm

/-- Every command word's meaning is a completion with some result of its pseudocode. -/
theorem exec_command {i : Instr} (hi : i.isCmdWord = true) (s : State) :
    ∃ r : CmdResult, exec i s = .next { s with engine := r.engine.report r.code } := by
  cases i <;> first | exact ⟨_, rfl⟩ | simp [Instr.isCmdWord] at hi

/-! ### The next move -/

/-- Everything the choice of the next move can answer with `rst` deasserted (R60, R201, R266, R275). -/
theorem liveMove_cases (s : State) :
    (∃ p n, s.engine.phase = .busy p n ∧ (n = 0 ∨ s.fetch = none) ∧ liveMove s = .run (decodeCmd p) s) ∨
    (∃ w i, s.fetch = some w ∧ (∀ p, s.engine.phase ≠ .busy p 0) ∧ decodeTx w = .ok i ∧
      liveMove s = .run i s.passSlot) ∨
    (∃ w e, s.fetch = some w ∧ (∀ p, s.engine.phase ≠ .busy p 0) ∧ decodeTx w = .error e ∧
      liveMove s = .refuse (refusalOf e)) ∨
    (s.engine.phase = .idle ∧ s.fetch = none ∧ liveMove s = .wait s) := by
  have hidle (h : s.engine.phase = .idle) : s.passSlot = s := by simp [State.passSlot, h]
  rcases hp : s.engine.phase with _ | ⟨p, _ | n⟩
  · rcases hf : s.fetch with _ | w
    · simp [liveMove, hp, hf]
    · rcases hd : decodeTx w with e | i
      · simp [liveMove, hp, hf, transactMove, hd]
      · simp [liveMove, hp, hf, transactMove, hd, hidle hp]
  · left; exact ⟨p, 0, rfl, .inl rfl, by simp [liveMove, hp]⟩
  · rcases hf : s.fetch with _ | w
    · left; exact ⟨p, n + 1, rfl, .inr rfl, by simp [liveMove, hp, hf]⟩
    · rcases hd : decodeTx w with e | i
      · simp [liveMove, hp, hf, transactMove, hd]
      · simp [liveMove, hp, hf, transactMove, hd]

/-- A transcribed word is a host transaction. -/
theorem decodeTx_isTx {w : TxWord} {i : Instr} (h : decodeTx w = .ok i) : i.isCmdWord = false := by
  unfold decodeTx at h
  split at h
  · split at h
    · cases h; rfl
    · cases h
  · cases h; rfl
  · cases h; rfl
  · cases h

/-- A command word decodes to a command or an illegal word (30_encoding.md R92). -/
theorem decodeCmd_isCmdWord (w : Word) : (decodeCmd w).isCmdWord = true := by
  unfold decodeCmd
  split
  · rfl
  · split <;> rfl

/-- `passSlot` changes the countdown of a pending command and nothing else. -/
theorem State.passSlot_eq (s : State) : ∃ ph, s.passSlot = { s with engine := { s.engine with phase := ph } } ∧
    (ph = s.engine.phase ∧ s.engine.phase = .idle ∨ ∃ p n, s.engine.phase = .busy p n ∧ ph = .busy p (n - 1)) := by
  rcases hp : s.engine.phase with _ | ⟨p, n⟩
  · exact ⟨.idle, by rw [State.passSlot, hp]; simp [← hp], .inl ⟨rfl, rfl⟩⟩
  · exact ⟨.busy p (n - 1), by simp [State.passSlot, hp], .inr ⟨p, n, rfl, rfl⟩⟩

end Sys2Proof.Machine
end

