-- ==== Sys2Proof/Laws/Commands.lean ====
section
/-! SUPPORT. What each command's pseudocode can answer: one lemma per command that lists its ends, each with the
condition it is reached under (41_bcd.md R112, R113; 42_aka.md R137; 43_kdf.md R172). -/

namespace Sys2Proof.Machine

/-- The four ends of KDF_RESSTAR (R172). -/
theorem kdfResstarRun_cases (e : Engine) :
    ((e.rand.loaded && e.res.loaded && e.ck.loaded && e.ik.loaded) = false ∧
      kdfResstarRun e = .raise e.clearResstar .missingInput) ∨
    ((e.rand.loaded && e.res.loaded && e.ck.loaded && e.ik.loaded) = true ∧
      (e.resLen.toNat < 1 ∨ 16 < e.resLen.toNat) ∧ kdfResstarRun e = .raise e.clearResstar .badResLen) ∨
    ((e.rand.loaded && e.res.loaded && e.ck.loaded && e.ik.loaded) = true ∧
      (1 ≤ e.resLen.toNat ∧ e.resLen.toNat ≤ 16) ∧ e.plmnBad = true ∧
      kdfResstarRun e = .raise e.clearResstar .badPlmn) ∨
    ((e.rand.loaded && e.res.loaded && e.ck.loaded && e.ik.loaded) = true ∧
      (1 ≤ e.resLen.toNat ∧ e.resLen.toNat ≤ 16) ∧ e.plmnBad = false ∧
      kdfResstarRun e = .ok e.clearResstar.deriveResstar) := by
  unfold kdfResstarRun
  rcases e.rand.loaded && e.res.loaded && e.ck.loaded && e.ik.loaded with _ | _
  · simp
  · by_cases h : e.resLen.toNat < 1 ∨ 16 < e.resLen.toNat
    · have h2 : (decide (e.resLen.toNat < 1) || decide (16 < e.resLen.toNat)) = true := by simpa using h
      exact .inr (.inl ⟨rfl, h, by simp only [Bool.not_true, Bool.false_eq_true, if_false, h2, if_true]⟩)
    · have h2 : (decide (e.resLen.toNat < 1) || decide (16 < e.resLen.toNat)) = false := by simpa using h
      have h1 : 1 ≤ e.resLen.toNat ∧ e.resLen.toNat ≤ 16 := by omega
      simp only [Bool.not_true, Bool.false_eq_true, if_false, h2]
      rcases e.plmnBad with _ | _
      · exact .inr (.inr (.inr ⟨trivial, h1, rfl, rfl⟩))
      · exact .inr (.inr (.inl ⟨trivial, h1, rfl, rfl⟩))

/-- The four ends of BCD_ENC (R112). -/
theorem bcdEncRun_cases (e : Engine) :
    (e.bcdText.loaded = false ∧ bcdEncRun e = .raise e .missingInput) ∨
    (e.bcdText.loaded = true ∧ 16 < e.ndig.toNat ∧ bcdEncRun e = .raise e .badBcdLen) ∨
    (e.bcdText.loaded = true ∧ e.ndig.toNat ≤ 16 ∧ digitsValid e.bcdText.bytes e.ndig.toNat = false ∧
      bcdEncRun e = .raise e .badDigit) ∨
    (e.bcdText.loaded = true ∧ e.ndig.toNat ≤ 16 ∧ digitsValid e.bcdText.bytes e.ndig.toNat = true ∧
      bcdEncRun e = .ok { e with bcdPacked := .full (packDigits e.bcdText.bytes e.ndig.toNat e.fill) }) := by
  unfold bcdEncRun
  rcases e.bcdText.loaded with _ | _
  · simp
  · by_cases h : 16 < e.ndig.toNat
    · simp [h]
    · have h1 : e.ndig.toNat ≤ 16 := by omega
      rcases digitsValid e.bcdText.bytes e.ndig.toNat with _ | _ <;> simp [h, h1]

/-- The three ends of BCD_DEC (R113). -/
theorem bcdDecRun_cases (e : Engine) :
    (e.bcdPacked.loaded = false ∧ bcdDecRun e = .raise e .missingInput) ∨
    (e.bcdPacked.loaded = true ∧ 16 < e.ndig.toNat ∧ bcdDecRun e = .raise e .badBcdLen) ∨
    (e.bcdPacked.loaded = true ∧ e.ndig.toNat ≤ 16 ∧
      bcdDecRun e = .ok { e with bcdText := .full (unpackDigits e.bcdPacked.bytes e.ndig.toNat) }) := by
  unfold bcdDecRun
  rcases e.bcdPacked.loaded with _ | _
  · simp
  · by_cases h : 16 < e.ndig.toNat
    · simp [h]
    · have h1 : e.ndig.toNat ≤ 16 := by omega
      simp [h, h1]

/-- The engine of AKA_CORE once SQN is recovered and MACA computed (R137). -/
def Engine.akaRecovered (e : Engine) (f1 : F1Port) (v : VectorsReply) : Engine :=
  { e.akaClear with
    sqn := e.recoverSqn v.ak, sqnValid := true, maca := (e.callF1 f1 (e.recoverSqn v.ak)).maca }

/-- The five ends of AKA_CORE (R137, R138). -/
theorem akaCore_cases (vectors : VectorsPort) (f1 : F1Port) (auth : Bool) (e : Engine) :
    (e.akaLoaded = false ∧ akaCore vectors f1 auth e = .raise e.akaClear .missingInput) ∨
    (e.akaLoaded = true ∧ auth = true ∧ e.plmnBad = true ∧ akaCore vectors f1 auth e = .raise e.akaClear .badPlmn) ∨
    (e.akaLoaded = true ∧ (auth && e.plmnBad) = false ∧
      ((e.callVectors vectors).resLen.toNat < 1 ∨ 16 < (e.callVectors vectors).resLen.toNat) ∧
      akaCore vectors f1 auth e = .raise e.akaClear.wipe .badResLen) ∨
    (e.akaLoaded = true ∧ (auth && e.plmnBad) = false ∧
      (1 ≤ (e.callVectors vectors).resLen.toNat ∧ (e.callVectors vectors).resLen.toNat ≤ 16) ∧
      (e.akaRecovered f1 (e.callVectors vectors)).maca ≠ macnOf e.autn.bytes ∧
      akaCore vectors f1 auth e = .raise (e.akaRecovered f1 (e.callVectors vectors)).wipe .authFailure) ∨
    (e.akaLoaded = true ∧ (auth && e.plmnBad) = false ∧
      (1 ≤ (e.callVectors vectors).resLen.toNat ∧ (e.callVectors vectors).resLen.toNat ≤ 16) ∧
      (e.akaRecovered f1 (e.callVectors vectors)).maca = macnOf e.autn.bytes ∧
      akaCore vectors f1 auth e = .ok
        (if auth then ((e.akaRecovered f1 (e.callVectors vectors)).installVectors (e.callVectors vectors)).deriveResstar
        else (e.akaRecovered f1 (e.callVectors vectors)).installVectors (e.callVectors vectors))) := by
  unfold akaCore
  rcases e.akaLoaded with _ | _
  · simp
  · rcases hp : auth && e.plmnBad with _ | _
    · generalize e.callVectors vectors = v
      by_cases h : v.resLen.toNat < 1 ∨ 16 < v.resLen.toNat
      · have h2 : (decide (v.resLen.toNat < 1) || decide (16 < v.resLen.toNat)) = true := by simpa using h
        exact .inr (.inr (.inl ⟨rfl, rfl, h, by
          simp only [Bool.not_true, Bool.false_eq_true, if_false, h2, if_true]⟩))
      · have h2 : (decide (v.resLen.toNat < 1) || decide (16 < v.resLen.toNat)) = false := by simpa using h
        have h1 : 1 ≤ v.resLen.toNat ∧ v.resLen.toNat ≤ 16 := by omega
        simp only [Bool.not_true, Bool.false_eq_true, if_false, h2]
        have hm : (e.akaRecovered f1 v).maca = (e.callF1 f1 (e.recoverSqn v.ak)).maca := rfl
        by_cases hmac : (e.callF1 f1 (e.recoverSqn v.ak)).maca = macnOf e.autn.bytes
        · refine .inr (.inr (.inr (.inr ⟨trivial, trivial, h1, hm.trans hmac, ?_⟩)))
          rw [if_neg (not_not_intro hmac)]
          cases auth <;> rfl
        · refine .inr (.inr (.inr (.inl ⟨trivial, trivial, h1, fun h' => hmac (hm ▸ h'), ?_⟩)))
          rw [if_pos hmac]
          rfl
    · simp only [Bool.and_eq_true] at hp
      simp [hp]

end Sys2Proof.Machine
end

