-- ==== Sys2Proof/Laws/Decode.lean ====
section
/-! SUPPORT. The fields of the two formats: what the encoder put in a field is what the decoder reads from it, and a
word is its fields (30_encoding.md R90, R96). -/

namespace Sys2Proof

@[simp] theorem txKind_txWord (k : BitVec 2) (o : BitVec 8) (d : Word) : txKind (txWord k o d) = k := by
  apply BitVec.eq_of_getLsbD_eq
  intro i hi
  have h1 : ¬ 40 + i < 32 := by omega
  have h2 : ¬ 40 + i - 32 < 8 := by omega
  simp only [txKind, txWord, BitVec.getLsbD_extractLsb', BitVec.getLsbD_append, hi, h1, h2]
  simp; congr 1; omega

@[simp] theorem txOff_txWord (k : BitVec 2) (o : BitVec 8) (d : Word) : txOff (txWord k o d) = o := by
  apply BitVec.eq_of_getLsbD_eq
  intro i hi
  have h1 : ¬ 32 + i < 32 := by omega
  have h2 : 32 + i - 32 = i := by omega
  simp only [txOff, txWord, BitVec.getLsbD_extractLsb', BitVec.getLsbD_append, hi, h1, h2]
  simp [hi]

@[simp] theorem txData_txWord (k : BitVec 2) (o : BitVec 8) (d : Word) : txData (txWord k o d) = d := by
  apply BitVec.eq_of_getLsbD_eq
  intro i hi
  simp only [txData, txWord, BitVec.getLsbD_extractLsb', BitVec.getLsbD_append, hi, Nat.zero_add]
  simp [hi]

/-- A HOSTTX word is its three fields. -/
theorem txWord_fields (w : TxWord) : txWord (txKind w) (txOff w) (txData w) = w := by
  apply BitVec.eq_of_getLsbD_eq
  intro i hi
  simp only [txKind, txOff, txData, txWord, BitVec.getLsbD_extractLsb', BitVec.getLsbD_append]
  by_cases h1 : i < 32
  · simp [h1]
  · by_cases h2 : i - 32 < 8
    · simp [h1, h2]; congr 1; omega
    · have h3 : i - 32 - 8 < 2 := by omega
      simp [h1, h2, h3]; congr 1; omega

/-- With RSVD 0 a CMD word is its OPCODE. -/
theorem opcodeOf_toNat {w : Word} (h : rsvdOf w = 0) : (opcodeOf w).toNat = w.toNat := by
  have h1 := congrArg BitVec.toNat h
  simp only [rsvdOf, BitVec.extractLsb'_toNat] at h1
  simp only [opcodeOf, BitVec.extractLsb'_toNat]
  have := w.isLt
  simp at h1 ⊢
  omega

/-- A word RSVD of which is not 0 is above 0xFF. -/
theorem toNat_of_rsvdOf {w : Word} (h : rsvdOf w ≠ 0) : 256 ≤ w.toNat := by
  by_contra hlt
  apply h
  apply BitVec.eq_of_toNat_eq
  simp only [rsvdOf, BitVec.extractLsb'_toNat]
  have : w.toNat < 256 := by omega
  simp [Nat.shiftRight_eq_div_pow, Nat.div_eq_of_lt this]

/-- Exactly the words that are not assigned decode to `illegal` (R92). -/
theorem decodeCmd_illegal_iff (w : Word) : decodeCmd w = .illegal w ↔ assignedWord w = false := by
  unfold decodeCmd assignedWord
  split
  · rename_i h
    have := toNat_of_rsvdOf h
    simp; omega
  · rename_i h
    rw [opcodeOf_toNat (by simpa using h)]
    split
    case h_7 h1 h2 h3 h4 h5 h6 =>
      change ¬ _ at h1 h2 h3 h4 h5 h6
      simp; omega
    all_goals simp; omega

end Sys2Proof
end

