-- ==== Sys2Proof/Laws/PerInstr.lean ====
section
/-! SUPPORT. A statement about every instruction, one lemma per constructor: which of the table's two formats its
encoding has (30_encoding.md R90, R96). -/

namespace Sys2Proof.Laws.EncodeFormat

/-- A command or illegal word encodes in CMD32, a host transaction in HOSTTX. -/
def Statement (i : Instr) : Prop :=
  if i.isCmdWord then ∃ w, encode i = .cmd32 w else ∃ w, encode i = .hosttx w

theorem kdfResstar : Statement .kdfResstar := ⟨_, rfl⟩
theorem akaVerify : Statement .akaVerify := ⟨_, rfl⟩
theorem akaAuth : Statement .akaAuth := ⟨_, rfl⟩
theorem bcdEnc : Statement .bcdEnc := ⟨_, rfl⟩
theorem bcdDec : Statement .bcdDec := ⟨_, rfl⟩
theorem zeroize : Statement .zeroize := ⟨_, rfl⟩
theorem illegal (word : Word) : Statement (.illegal word) := ⟨_, rfl⟩
theorem rd (off : BitVec 8) : Statement (.rd off) := ⟨_, rfl⟩
theorem wr (off : BitVec 8) (value : Word) : Statement (.wr off value) := ⟨_, rfl⟩
theorem poll (off : BitVec 8) (mask : Word) : Statement (.poll off mask) := ⟨_, rfl⟩

end Sys2Proof.Laws.EncodeFormat
end

