-- ==== Sys2Proof/Laws/Step.lean ====
section
/-! SUPPORT. What one step can do, and what one host transaction can do to the engine: the lemmas that invariants and
whole-machine rules are proved from (20_memory.md R60, R74 to R76). -/

namespace Sys2Proof.Machine

/-- With `rst` deasserted the next move is the live one, the level used up (R260). -/
theorem nextMove_live {s : State} (h : s.rst.head? ≠ some true) :
    nextMove s = liveMove { s with rst := s.rst.tail } := by
  rcases hr : s.rst with _ | ⟨b, l⟩
  · have : ({ s with rst := [] } : State) = s := by rw [← hr]
    simp [nextMove, hr, this]
  · cases b with
    | true => simp [hr] at h
    | false => simp [nextMove, hr]

/-- Everything a step that answers a next state can have done: a hardware reset, a completion, a host transaction, or a
wait; each with the move it was. -/
theorem step_cases {s t : State} (h : step s = .next t) :
    (∃ l, s.rst = true :: l ∧ nextMove s = .hardReset { s with rst := l } ∧
      t = State.resetEngine { s with rst := l }) ∨
    (∃ p n, s.engine.phase = .busy p n ∧ (n = 0 ∨ s.fetch = none) ∧
      nextMove s = .run (decodeCmd p) { s with rst := s.rst.tail } ∧
      exec (decodeCmd p) { s with rst := s.rst.tail } = .next t) ∨
    (∃ w i, s.fetch = some w ∧ (∀ p, s.engine.phase ≠ .busy p 0) ∧ decodeTx w = .ok i ∧
      nextMove s = .run i (State.passSlot { s with rst := s.rst.tail }) ∧
      exec i (State.passSlot { s with rst := s.rst.tail }) = .next t) ∨
    (s.engine.phase = .idle ∧ s.fetch = none ∧ nextMove s = .wait { s with rst := s.rst.tail } ∧
      t = { s with rst := s.rst.tail }) := by
  unfold step at h
  by_cases hr : s.rst.head? = some true
  · left
    rcases hl : s.rst with _ | ⟨b, l⟩
    · simp [hl] at hr
    · have hb : b = true := by simpa [hl] using hr
      subst hb
      have hm : nextMove s = .hardReset { s with rst := l } := by simp [nextMove, hl]
      rw [hm] at h
      exact ⟨l, rfl, hm, by cases h; rfl⟩
  · right
    rw [nextMove_live hr] at h ⊢
    rcases liveMove_cases { s with rst := s.rst.tail } with ⟨p, n, hp, hn, hm⟩ | ⟨w, i, hf, hn, hd, hm⟩ |
      ⟨w, e, hf, hn, hd, hm⟩ | ⟨hp, hf, hm⟩
    · rw [hm] at h ⊢; exact .inl ⟨p, n, hp, hn, rfl, h⟩
    · rw [hm] at h ⊢; exact .inr (.inl ⟨w, i, hf, hn, hd, rfl, h⟩)
    · rw [hm] at h; cases h
    · rw [hm] at h ⊢; exact .inr (.inr ⟨hp, hf, rfl, by cases h; rfl⟩)

/-- What a host transaction that answers a next state leaves alone, and what it does to the engine: nothing (RD, POLL),
or one register write (WR). -/
theorem exec_tx_cases {i : Instr} (hi : i.isCmdWord = false) {s t : State} (h : exec i s = .next t) :
    t.program = s.program ∧ t.rst = s.rst ∧ (t.pc = s.pc ∨ t.pc = s.pc + 1) ∧
      (((∃ off, i = .rd off) ∨ ∃ off m, i = .poll off m) ∧ t.engine = s.engine ∨
        ∃ off v, i = .wr off v ∧ off.toNat % 4 = 0 ∧ t.results = s.results ∧
          t.engine = (s.writeReg (regAt off) v).engine) := by
  cases i <;> first | (simp [Instr.isCmdWord] at hi; done) | skip
  case rd off =>
    obtain ⟨d, hd⟩ := s.readReg_state (regAt off)
    by_cases ha : off.toNat % 4 = 0
    · simp only [exec, execRd_eq, ha, if_true, Host.Outcome.next.injEq] at h
      subst h
      simp [hd]
    · simp [exec, execRd_eq, ha] at h
  case poll off m =>
    obtain ⟨d, hd⟩ := s.readReg_state (regAt off)
    by_cases ha : off.toNat % 4 = 0
    · simp only [exec, execPoll_eq, ha, if_true, Host.Outcome.next.injEq] at h
      by_cases hc : (s.readReg (regAt off)).1 &&& m = 0
      · rw [if_pos hc] at h; subst h; simp [hd]
      · rw [if_neg hc] at h; subst h; simp [hd]
    · simp [exec, execPoll_eq, ha] at h
  case wr off v =>
    by_cases ha : off.toNat % 4 = 0
    · simp only [exec, execWr_eq, ha, if_true, Host.Outcome.next.injEq] at h
      subst h
      have hw : (s.writeReg (regAt off) v).program = s.program ∧ (s.writeReg (regAt off) v).rst = s.rst ∧
          (s.writeReg (regAt off) v).pc = s.pc ∧ (s.writeReg (regAt off) v).results = s.results := by
        rcases s.writeReg_cases (regAt off) v with ⟨_, _, h⟩ | ⟨_, _, h⟩ | ⟨_, h⟩ | ⟨_, _, _, _, h⟩ |
          ⟨_, _, _, _, h⟩ | ⟨_, _, h⟩ | ⟨_, _, _, _, h⟩ <;> rw [h] <;> exact ⟨rfl, rfl, rfl, rfl⟩
      exact ⟨hw.1, hw.2.1, .inr (congrArg (· + 1) hw.2.2.1), .inr ⟨off, v, rfl, ha, hw.2.2.2, rfl⟩⟩
    · simp [exec, execWr_eq, ha] at h

end Sys2Proof.Machine
end

