-- ==== Sys2Proof/Tests/Slice0.lean ====
section
/-! SUPPORT. The model's own tests. Expected values come from the spec: encodings of 30_encoding.md R91 and R96, vectors of
95_test_vectors.md, named at each test. A `witness_` theorem shows, for the obligation it is named after, states and
operands that meet its hypotheses, each clause at a boundary of its range. -/

namespace Sys2Proof.Tests

open Sys2Proof.Machine

/-! ### Helpers -/

/-- A byte string from the spec's hex notation, zero-padded on the right. -/
def hex (n : Nat) (s : String) : ByteStr n := Vector.ofFn fun j => ((parseHex s.toList).getD []).getD j.val 0

/-- A tracked field loaded with a byte string. -/
def loaded16 (s : String) : Tracked 16 4 := .full (hex 16 s)

/-- BCD_TEXT loaded with characters. -/
def text (s : String) : Tracked 16 4 := .full (Vector.ofFn fun j => (ascii s.toList).getD j.val 0)

/-- The reset system with another engine, IDLE. -/
def idle (e : Engine) : State := { State.reset with engine := e }

/-- The reset system with command word `p` pending and `n` slots left. -/
def busy (p : Word) (n : Nat) : State := idle { Engine.reset with phase := .busy p n }

/-- The state an outcome leads to; reset where it stops. -/
def after (o : Host.Outcome State Fault Refusal) : State :=
  match o with
  | .next s => s
  | .fault _ => State.reset
  | .refused _ => State.reset

/-- The stub VECTORS function of V-AKA-1, with its RES length. -/
def stubVectors (len : BitVec 5) : VectorsPort := fun _ _ _ _ _ =>
  { res := hex 16 "0102030405060708", resLen := len, ck := hex 16 "11111111111111111111111111111111"
    ik := hex 16 "22222222222222222222222222222222", ak := hex 6 "0f0f0f0f0f0f", maca0 := zeroBytes 8
    macs0 := zeroBytes 8 }

/-- The stub F1 function of V-AKA-1. -/
def stubF1 (maca : String) : F1Port := fun _ _ _ _ _ _ => { maca := hex 8 maca, macs := zeroBytes 8 }

/-- The engine of V-AKA-1. -/
def akaEngine : Engine :=
  { Engine.reset with
    k := loaded16 "", opc := loaded16 "", rand := loaded16 ""
    autn := loaded16 "00112233445566778899aabbccddeeff", mcc := 1, mnc := 1 }

/-- The engine of V-KDF-1 with the given RES length and MCC. -/
def kdfEngine (n : BitVec 5) (mcc : BitVec 16) : Engine :=
  { Engine.reset with
    mcc := mcc, mnc := 1, resLen := n, rand := loaded16 "", res := loaded16 "", ck := loaded16 "", ik := loaded16 "" }

/-- An engine with the given text, NDIG and FILL. -/
def bcdEngine (s : String) (n : BitVec 5) (fill : BitVec 4) : Engine :=
  { Engine.reset with bcdText := text s, ndig := n, fill := fill }

/-! ### Ill-formed terms are refused (30_encoding.md R92, R96 to R99) -/

/-- KDF_RESSTAR's to ZEROIZE's words are no illegal words; their neighbours are. -/
theorem test_wf_illegal_word :
    (Instr.illegal 1).wf = false ∧ (Instr.illegal 6).wf = false ∧ (Instr.illegal 0).wf = true ∧
      (Instr.illegal 7).wf = true ∧ (Instr.illegal 0x101).wf = true := by decide

/-- EXEC names one of the six mnemonics, not an illegal word (R99); a command is no transaction. -/
theorem test_wf_line :
    (Line.exec (.illegal 0x107)).wf = false ∧ (Line.exec (.rd 0)).wf = false ∧ (Line.tx .zeroize).wf = false ∧
      (Line.exec .akaAuth).wf = true := by decide

/-- Ill-formed lines are not transcribed; nor is a hex string longer than its field. -/
theorem test_ill_formed_line_refused :
    transcribe [.exec (.illegal 0x107)] = none ∧ transcribe [.tx .zeroize] = none ∧
      transcribe [.load .bcdPacked (List.replicate 9 0)] = none := by decide +kernel

/-! ### Decoding, words written out from R91 and R96 -/

theorem test_decode_cmd_words :
    decodeTableWord 32 0x00000001 = some .kdfResstar ∧ decodeTableWord 32 0x00000002 = some .akaVerify ∧
      decodeTableWord 32 0x00000003 = some .akaAuth ∧ decodeTableWord 32 0x00000004 = some .bcdEnc ∧
      decodeTableWord 32 0x00000005 = some .bcdDec ∧ decodeTableWord 32 0x00000006 = some .zeroize := by decide

/-- The illegal words of V-ERR-1, and the first and last of the reserved opcodes. -/
theorem test_decode_illegal_words :
    decodeTableWord 32 0x00000107 = some (.illegal 0x107) ∧ decodeTableWord 32 0x00000101 = some (.illegal 0x101) ∧
      decodeTableWord 32 0x00000000 = some (.illegal 0) ∧ decodeTableWord 32 0x00000007 = some (.illegal 7) ∧
      decodeTableWord 32 0x000000FF = some (.illegal 0xFF) ∧
      decodeTableWord 32 0x80000001 = some (.illegal 0x80000001) := by decide

/-- KIND 00, OFF 0x10; KIND 01, OFF 0x0C, DATA 3; KIND 10, OFF 0x10, DATA 1. -/
theorem test_decode_hosttx :
    decodeTableWord 48 0b00_00010000_00000000000000000000000000000000 = some (.rd 0x10) ∧
      decodeTableWord 48 0b01_00001100_00000000000000000000000000000011 = some (.wr 0x0C 3) ∧
      decodeTableWord 48 0b10_00010000_00000000000000000000000000000001 = some (.poll 0x10 1) := by decide

/-- KIND 11 and an RD with DATA ≠ 0 are refused, each by its own name (R96). -/
theorem test_decode_refused :
    decodeTableWord 48 0b11_00010000_00000000000000000000000000000000 = none ∧
      decodeTx 0b11_00010000_00000000000000000000000000000000 = .error .kindReserved ∧
      decodeTx 0b00_00010000_00000000000000000000000000000001 = .error .rdDataNonzero := by decide

theorem test_encode :
    encode .akaAuth = .cmd32 0x00000003 ∧ encode (.illegal 0x107) = .cmd32 0x00000107 ∧
      encode (.rd 0xA0) = .hosttx 0x0a000000000 ∧ encode (.wr 0x30 0x465b5ce8) = .hosttx 0x130465b5ce8 ∧
      encode (.poll 0x10 1) = .hosttx 0x21000000001 := by decide

/-- The text of P7 gives the HOSTTX words the spec lists for it. -/
theorem test_assemble_p7 :
    assemble "LOAD BCD_TEXT, 3132333435        ; 12345\nWR BCD_CTRL, 0x0F05\nEXEC BCD_ENC\nWAIT\nRD STATUS -> 0x2" =
      some [0x1c031323334, 0x1c435000000, 0x1c800000000, 0x1cc00000000, 0x12800000f05, 0x10c00000004, 0x21000000001,
        0x01000000000] := by decide +kernel

/-- The example of R98: LOAD AUTN gives four writes, each word in lane order. -/
theorem test_load_autn :
    expandLine (.load .autn (hex 16 "00112233445566778899AABBCCDDEEFF").toList) =
      some [.wr 0x60 0x00112233, .wr 0x64 0x44556677, .wr 0x68 0x8899AABB, .wr 0x6C 0xCCDDEEFF] := by decide +kernel

/-! ### Instructions, one step each -/

/-- V-SHA: the digest of "abc". -/
theorem test_sha256_abc :
    sha256 (ascii "abc".toList) =
      (hex 32 "ba7816bf8f01cfea414140de5dae2223b00361a396177a9cb410ff61f20015ad").toList := by decide +kernel

/-- V-KDF-1: RES\* of the document's fixture, and STATUS. -/
theorem test_kdf_fixture :
    (let e := (after (exec .kdfResstar (idle (kdfEngine 16 1)))).engine
     e.resstar = hex 16 "c94847957e7f80782e87002b2946aadb" ∧ statusWord e = 0x12) := by decide +kernel

/-- V-KDF-9: with RES_LEN 0 and MCC 1000, BAD_RES_LEN wins. -/
theorem test_kdf_error_order :
    statusWord (after (exec .kdfResstar (idle (kdfEngine 0 1000)))).engine = 0x406 := by decide +kernel

/-- V-AKA-1, AKA_VERIFY with the stub port. -/
theorem test_aka_verify_stub :
    (let e := (after (complete (akaCore (stubVectors 8) (stubF1 "8899aabbccddeeff") false akaEngine)
        (idle akaEngine))).engine
     e.sqn = hex 6 "0f1e2d3c4b5a" ∧ statusWord e = 0x62 ∧ loadedWord e = 0x7f ∧ e.resLen = 8 ∧
     e.resstar = zeroBytes 16) := by decide +kernel

/-- V-AKA-3: K not loaded, whatever the configured port. -/
theorem test_aka_verify_missing :
    (let s := after (exec .akaVerify (idle { akaEngine with k := .cleared 16 4 }))
     statusWord s.engine = 0x206 ∧ loadedWord s.engine = 0x0e) := by decide +kernel

/-- V-AKA-1, AKA_AUTH with the stub port. -/
theorem test_aka_auth_stub :
    (let e := (after (complete (akaCore (stubVectors 8) (stubF1 "8899aabbccddeeff") true akaEngine)
        (idle akaEngine))).engine
     e.resstar = hex 16 "deb38d14403a9ec739cbd98aca8539cd" ∧ statusWord e = 0x72) := by decide +kernel

/-- V-AKA-3: BAD_PLMN before the port, whatever the configured port. -/
theorem test_aka_auth_bad_plmn :
    statusWord (after (exec .akaAuth (idle { akaEngine with mcc := 1000 }))).engine = 0x306 := by decide +kernel

/-- V-BCD-2: odd length, with FILL. -/
theorem test_bcd_enc_odd :
    (let e := (after (exec .bcdEnc (idle (bcdEngine "12345" 5 0xF)))).engine
     e.bcdPacked = .full (hex 8 "2143f5") ∧ statusWord e = 0x2) := by decide +kernel

/-- V-BCD-7: an invalid character inside NDIG, and outside it. -/
theorem test_bcd_enc_bad_digit :
    statusWord (after (exec .bcdEnc (idle (bcdEngine "12g4" 4 0)))).engine = 0x606 ∧
      statusWord (after (exec .bcdEnc (idle (bcdEngine "12zz" 2 0)))).engine = 0x002 := by decide +kernel

/-- V-BCD-3: sixteen digits. -/
theorem test_bcd_dec_full :
    (let e : Engine := { Engine.reset with bcdPacked := .full (hex 8 "1032547698badcfe"), ndig := 16 }
     (after (exec .bcdDec (idle e))).engine.bcdText = text "0123456789abcdef") := by decide +kernel

/-- V-BCD-7: MISSING_INPUT wins over BAD_BCD_LEN. -/
theorem test_bcd_dec_errors :
    statusWord (after (exec .bcdDec (idle { Engine.reset with ndig := 17 }))).engine = 0x206 ∧
      statusWord (after (exec .bcdDec (idle { Engine.reset with bcdPacked := .full (hex 8 ""), ndig := 17 }))).engine
        = 0x706 := by decide +kernel

/-- V-ZER-1: key material is cleared, the parameter registers stay. -/
theorem test_zeroize :
    (let e := (after (exec .zeroize (idle { akaEngine with variant := 0x5A, ndig := 6, fill := 0xF, resLen := 8 }))).engine
     statusWord e = 0x2 ∧ loadedWord e = 0 ∧ e.resLen = 0 ∧ e.mcc = 1 ∧ e.variant = 0x5A ∧
     e.readReg .bcdCtrl = 0xF06) := by decide +kernel

/-- V-ERR-1. -/
theorem test_illegal : statusWord (after (exec (.illegal 0x107) (idle Engine.reset))).engine = 0x106 := by decide +kernel

/-- A word of SQN: its lanes past byte 5 read 0 (20_memory.md R66). -/
theorem test_rd_sqn :
    (after (exec (.rd 0xB4) (idle { Engine.reset with sqn := hex 6 "0f1e2d3c4b5a" }))).results =
      [⟨0, 0xB4, 0x4b5a0000⟩] := by decide +kernel

/-- K reads 0 (10_state.md R43). -/
theorem test_rd_key :
    (after (exec (.rd 0x3C) (idle { Engine.reset with k := loaded16 "ffffffffffffffffffffffffffffffff" }))).results =
      [⟨0, 0x3C, 0⟩] := by decide +kernel

/-- V-AKA-3: VARIANT keeps its own 8 bits. -/
theorem test_wr_variant : (after (exec (.wr 0x24 0x1A7) State.reset)).engine.variant = 0xA7 := by decide +kernel

/-- A write to RAND while BUSY is dropped and sets WERR (70_reset_and_hazards.md R271). -/
theorem test_wr_busy :
    (let s := after (exec (.wr 0x50 0xDEADBEEF) (busy 6 1))
     s.engine.werr = true ∧ s.engine.rand = .cleared 16 4 ∧ s.pc = 1) := by decide +kernel

/-- WAIT while BUSY stays where it is; in IDLE it goes on (20_memory.md R76). -/
theorem test_poll_wait :
    (after (exec (.poll 0x10 1) (idle Engine.reset))).pc = 1 ∧
      (after (exec (.poll 0x08 1) (idle { Engine.reset with irqEn := true }))).pc = 0 := by decide +kernel

/-- A misaligned POLL is a BusError (20_memory.md R64). -/
theorem test_poll_misaligned : exec (.poll 0x11 1) State.reset = .fault (.busError 0x11) := rfl

/-- The host address of an offset is BASE plus it, and maps back (20_memory.md R82). -/
theorem test_window_first : windowOffset (hostAddress 0) = some 0 := by simp [windowOffset, hostAddress]

/-! ### Witnesses -/

theorem witness_DecodeInvertsEncode :
    (Instr.illegal 0xFFFFFFFF).wf = true ∧ (Instr.rd 0xFF).wf = true ∧ Instr.zeroize.wf = true := by decide

theorem witness_EncodeInvertsDecode :
    decode (.hosttx 0x130465b5ce8) = .ok (.wr 0x30 0x465b5ce8) ∧ decode (.cmd32 0x107) = .ok (.illegal 0x107) := by
  decide

theorem witness_IllegalWordsAcceptedAndReported :
    State.reset.engine.phase = .idle ∧ ((0x101 : Word).extractLsb' 8 24 ≠ 0) ∧
      ((0x7 : Word).extractLsb' 8 24 = 0 ∧ 7 ≤ ((0x7 : Word).extractLsb' 0 8).toNat) ∧
      (∀ n : Nat, 1 ≤ n → n ≤ 6 → (BitVec.ofNat 32 n).extractLsb' 8 24 = 0) := by
  refine ⟨rfl, by decide, by decide, fun n h1 h2 => ?_⟩
  interval_cases n <;> decide

theorem witness_TranscriberReadsHosttx :
    ((0x0a000000000 : TxWord).extractLsb' 40 2 = 0b00 ∧ (0x0a000000000 : TxWord).extractLsb' 0 32 = 0) ∧
      ((0x0a000000001 : TxWord).extractLsb' 40 2 = 0b00 ∧ (0x0a000000001 : TxWord).extractLsb' 0 32 ≠ 0) ∧
      (0x130465b5ce8 : TxWord).extractLsb' 40 2 = 0b01 ∧ (0x21000000001 : TxWord).extractLsb' 40 2 = 0b10 ∧
      (0x30000000000 : TxWord).extractLsb' 40 2 = 0b11 ∧ (0xFF : BitVec 8).toNat % 4 ≠ 0 := by decide

theorem witness_PseudoInstructionsExpandAsListed :
    (Instr.rd 0).isCmdWord = false ∧ (Instr.illegal 7).isCommand = false ∧ ([] : List Byte).length ≤ fieldBytes .sqn ∧
      (List.replicate 16 (0 : Byte)).length ≤ fieldBytes .autn ∧
    transcribe [.exec .kdfResstar, .wait, .ack] = some [0x10c00000001, 0x21000000001, 0x1100000000e] := by
  decide +kernel

theorem witness_LoadStoresPaddedString :
    (fieldTracked .bcdPacked = true ∧ (List.replicate 8 (0xA5 : Byte)).length ≤ fieldBytes .bcdPacked) ∧
      (fieldTracked .k = true ∧ (List.replicate 16 (0xA5 : Byte)).length ≤ fieldBytes .k) ∧
      (fieldTracked .bcdText = true ∧ (List.replicate 6 (0x30 : Byte)).length ≤ fieldBytes .bcdText) ∧
      State.reset.engine.phase = .idle := by decide

theorem witness_StepRunsPlacedWord :
    decodeTableWord 48 0x0a000000000 = some (.rd 0xA0) ∧ decodeTableWord 32 6 = some .zeroize := by decide

theorem witness_DueCompletionRunsPending :
    (busy 6 0).rst.head? ≠ some true ∧ (busy 6 0).engine.phase = .busy 6 0 := by decide

theorem witness_StepRunsFetchedTransaction :
    (let s (w : TxWord) (ph : Phase) : State := { busy 6 1 with program := [w], engine := { Engine.reset with phase := ph } }
     ((s 0x0a000000000 .idle).rst.head? ≠ some true ∧
       (s 0x0a000000000 .idle).program[(s 0x0a000000000 .idle).pc]? = some 0x0a000000000) ∧
     decodeTx 0x0a000000000 = .ok (.rd 0xA0) ∧ (s 0x0a000000000 .idle).engine.phase = .idle ∧
     (s 0x0a000000000 (.busy 6 1)).engine.phase = .busy 6 (0 + 1) ∧
     decodeTx 0x30000000000 = .error .kindReserved ∧ (s 0x30000000000 (.busy 6 1)).engine.phase ≠ .busy 6 0) := by
  decide

theorem witness_EndOfProgramCompletesOrWaits :
    (busy 6 3).rst.head? ≠ some true ∧ (busy 6 3).program[(busy 6 3).pc]? = none ∧
      (busy 6 3).engine.phase = .busy 6 3 ∧ State.reset.rst.head? ≠ some true ∧
      State.reset.program[State.reset.pc]? = none ∧ State.reset.engine.phase = .idle := by decide

theorem witness_HardwareResetState :
    ({ busy 6 1 with rst := [true, false] } : State).rst = true :: [false] := by decide

theorem witness_SoftResetAborts : (3 : Word)[1] = true ∧ (2 : Word)[1] = true := by decide

theorem witness_CtrlWritesAndReads :
    (1 : Word)[1] = false ∧ (3 : Word)[1] = true ∧
      (idle { Engine.reset with irqEn := true, done := true }).engine.irq = true := by decide

theorem witness_StatusWritesAndReads : State.reset.engine.phase = .idle := by decide

theorem witness_LoadedShowsWriteMasks :
    State.reset.engine.phase = .idle ∧
      [Field.k, .opc, .rand, .autn, .res, .ck, .ik, .bcdText, .bcdPacked][0]? = some .k ∧
      [Field.k, .opc, .rand, .autn, .res, .ck, .ik, .bcdText, .bcdPacked][8]? = some .bcdPacked := by decide

theorem witness_IdleReadRecordsRegister :
    State.reset.engine.phase = .idle ∧ (0xFC : BitVec 8).toNat % 4 = 0 ∧ (0x00 : BitVec 8).toNat % 4 = 0 := by decide

theorem witness_FieldReadsInLaneOrder :
    State.reset.engine.phase = .idle ∧ 1 < fieldWords .sqn ∧ 3 < fieldWords .resstar ∧ 3 < fieldWords .k ∧
      (busy 3 1).engine.phase = .busy 3 1 ∧ Field.autn ∉ fieldsWritten (decodeCmd 3) := by decide

/-- A register of the write set, LOADED, STATUS and one outside, while AKA_AUTH is pending. -/
theorem witness_BusyReadsAreRightOutsideWriteSet :
    (busy 3 0).engine.phase = .busy 3 0 ∧ (0xA0 : BitVec 8).toNat % 4 = 0 ∧
      mayWrite (decodeCmd 3) (regAt 0xA0) = true ∧ (0x14 : BitVec 8).toNat % 4 = 0 ∧
      (0x10 : BitVec 8).toNat % 4 = 0 ∧ mayWrite (decodeCmd 3) (regAt 0x60) = false := by decide

theorem witness_ReadsAndRepeatedWritesIdempotent :
    (∃ t, exec (.rd 0xA0) State.reset = .next t) ∧ (∃ t, exec (.poll 0x10 1) State.reset = .next t) ∧
      (∃ t u, (0x30 : BitVec 8) ≠ 0x0C ∧ exec (.wr 0x30 5) State.reset = .next t ∧ exec (.wr 0x30 5) t = .next u) ∧
      ∃ t u, exec (.wr 0x0C 6) State.reset = .next t ∧ exec (.wr 0x0C 1) t = .next u :=
  ⟨⟨_, rfl⟩, ⟨_, rfl⟩, ⟨_, _, by decide, rfl, rfl⟩, ⟨_, _, rfl, rfl⟩⟩

theorem witness_BadAccessIsBusError :
    (16 ≠ 32 ∨ (0x10 : BitVec 8).toNat % 4 ≠ 0) ∧ (32 ≠ 32 ∨ (0x13 : BitVec 8).toNat % 4 ≠ 0) ∧
      (0xFF : BitVec 8).toNat % 4 ≠ 0 := by decide

theorem witness_PollIsReadThatRepeats : (0xFC : BitVec 8).toNat % 4 = 0 := by decide

theorem witness_TrackedFieldWrite :
    (State.reset.engine.phase = .idle ∧ fieldTracked .bcdPacked = true ∧ 1 < fieldWords .bcdPacked) ∧
      (let s := idle akaEngine
       isSoftReset (.wr 0x30 5) = false ∧ (∃ t, exec (.wr 0x30 5) s = .next t) ∧ s.engine.maskBit .k 3 = true) :=
  ⟨by decide, by decide, ⟨_, rfl⟩, by decide +kernel⟩

theorem witness_ParameterRegisterWrites : State.reset.engine.phase = .idle := by decide

/-- The first and last word of each range of readable tracked fields, and each parameter register. -/
theorem witness_ReadAfterWriteReturnsValue :
    State.reset.engine.phase = .idle ∧
      ∀ off : BitVec 8, off ∈ ([0x50, 0x9C, 0xC0, 0xD4] : List (BitVec 8)) →
        (0x50 ≤ off.toNat ∧ off.toNat < 0xA0 ∨ 0xC0 ≤ off.toNat ∧ off.toNat < 0xD8) ∧ off.toNat % 4 = 0 := by decide

/-- Read-only and reserved offsets at the ends of their ranges; a read that answers; a CMD word with a reserved bit. -/
theorem witness_ReservedSpaceReadsZeroIgnoresWrites :
    (∀ off : BitVec 8, off ∈ ([0x00, 0x04, 0x14, 0x2C, 0xA0, 0xBC, 0xD8, 0xFC] : List (BitVec 8)) →
      off.toNat % 4 = 0 ∧
        (off = 0x00 ∨ off = 0x04 ∨ off = 0x14 ∨ off = 0x2C ∨ 0xA0 ≤ off.toNat ∧ off.toNat < 0xC0 ∨ 0xD8 ≤ off.toNat)) ∧
      (∃ t x, exec (.rd 0x28) State.reset = .next t ∧ t.results.head? = some x) ∧ (0x28 : BitVec 8) ≠ 0x0C ∧
      (0x101 : Word).extractLsb' 8 24 ≠ 0 :=
  ⟨by decide, ⟨_, _, rfl, rfl⟩, by decide, by decide⟩

theorem witness_AlignedWriteCompletes : (0xFC : BitVec 8).toNat % 4 = 0 ∧ (0x08 : BitVec 8) ≠ 0x0C := by decide

/-- Each clause of the BUSY write rule at the ends of its ranges. -/
theorem witness_BusyWritesAreDropped :
    (busy 1 2).engine.phase = .busy 1 2 ∧ (2 : Word)[1] = true ∧ (1 : Word)[1] = false ∧
      (∀ off : BitVec 8, off ∈ ([0x30, 0x9C, 0xC0, 0xD4] : List (BitVec 8)) → off.toNat % 4 = 0 ∧
        (0x30 ≤ off.toNat ∧ off.toNat < 0xA0 ∨ 0xC0 ≤ off.toNat ∧ off.toNat < 0xD8)) ∧
      (∀ off : BitVec 8, off ∈ ([0xA0, 0xBC, 0xD8, 0xFC] : List (BitVec 8)) → off.toNat % 4 = 0 ∧
        (0xA0 ≤ off.toNat ∧ off.toNat < 0xC0 ∨ 0xD8 ≤ off.toNat)) ∧ (0x08 : BitVec 8).toNat % 4 = 0 ∧
      (0x10 : BitVec 8).toNat % 4 = 0 := by decide

theorem witness_CommandWriteAccepts :
    State.reset.engine.phase = .idle ∧ (busy 1 2).engine.isBusy = true := by decide

theorem witness_EveryCommandCompletesAndReports :
    Instr.kdfResstar.isCmdWord = true ∧ (Instr.illegal 0).isCmdWord = true := by decide

theorem witness_CommandWritesOnlyItsWriteSet :
    Instr.bcdEnc.isCmdWord = true ∧ (∃ t, exec .bcdEnc State.reset = .next t) ∧ resLenWritten .bcdEnc = false ∧
      Field.bcdText ∉ fieldsWritten .bcdEnc ∧ writesResstar .bcdEnc = false :=
  ⟨by decide, ⟨_, rfl⟩, by decide, by decide, by decide⟩

/-- One engine for each end, the limits at their boundaries. -/
theorem witness_KdfResstarResult :
    (let ready (e : Engine) := e.rand.loaded && e.res.loaded && e.ck.loaded && e.ik.loaded
     ready Engine.reset = false ∧ ready (kdfEngine 0 1) = true ∧ (kdfEngine 0 1).resLen.toNat < 1 ∧
     16 < (kdfEngine 17 1).resLen.toNat ∧ ready (kdfEngine 1 1000) = true ∧ 1 ≤ (kdfEngine 1 1000).resLen.toNat ∧
     999 < (kdfEngine 1 1000).mcc.toNat ∧ ready (kdfEngine 16 999) = true ∧ (kdfEngine 16 999).resLen.toNat ≤ 16 ∧
     (kdfEngine 16 999).mcc.toNat ≤ 999 ∧ (kdfEngine 16 999).mnc.toNat ≤ 999) := by decide +kernel

/-- Two engines that agree on the inputs and differ in RES past RES_LEN, K and AUTN. -/
theorem witness_KdfReadsOnlyItsInputs :
    (let e := kdfEngine 8 1
     let e' := { e with res := loaded16 "0000000000000000ffffffffffffffff", k := loaded16 "01", autn := loaded16 "02" }
     e'.rand = e.rand ∧ e'.ck = e.ck ∧ e'.ik = e.ik ∧ e'.res.mask = e.res.mask ∧ e'.resLen = e.resLen ∧
     (∀ j < e.resLen.toNat, byteAt e'.res.bytes j = byteAt e.res.bytes j) ∧ e'.mcc = e.mcc ∧ e'.mnc = e.mnc ∧
     e'.res ≠ e.res) ∧
      (∃ t, exec .kdfResstar (idle (kdfEngine 8 1)) = .next t) := by
  refine ⟨by decide +kernel, ⟨_, rfl⟩⟩

theorem witness_AkaInputChecks :
    (let ready (e : Engine) := e.k.loaded && e.opc.loaded && e.rand.loaded && e.autn.loaded
     ready { akaEngine with k := .cleared 16 4 } = false ∧ ready akaEngine = true ∧
     999 < ({ akaEngine with mcc := 1000 } : Engine).mcc.toNat ∧ 999 < ({ akaEngine with mnc := 1000 } : Engine).mnc.toNat) := by
  decide +kernel

/-- The stub port reaches every end: lengths 0 and 17, a MAC mismatch, a match at lengths 1 and 16. -/
theorem witness_AkaVerifyResult :
    (let e := akaEngine
     let v (n : BitVec 5) := stubVectors n e.k.bytes e.opc.bytes e.rand.bytes e.variant (amfOf e.autn.bytes)
     let maca (m : String) := (stubF1 m e.k.bytes e.opc.bytes e.rand.bytes e.variant (amfOf e.autn.bytes)
       (xorBytes (sqnakOf e.autn.bytes) (v 8).ak)).maca
     e.k.loaded = true ∧ e.opc.loaded = true ∧ e.rand.loaded = true ∧ e.autn.loaded = true ∧
     ¬ (1 ≤ (v 0).resLen.toNat ∧ (v 0).resLen.toNat ≤ 16) ∧ ¬ (1 ≤ (v 17).resLen.toNat ∧ (v 17).resLen.toNat ≤ 16) ∧
     (1 ≤ (v 1).resLen.toNat ∧ (v 1).resLen.toNat ≤ 16) ∧ (1 ≤ (v 16).resLen.toNat ∧ (v 16).resLen.toNat ≤ 16) ∧
     maca "8899aabbccddeefe" ≠ macnOf e.autn.bytes ∧ maca "8899aabbccddeeff" = macnOf e.autn.bytes) := by
  decide +kernel

theorem witness_AkaAuthResult :
    (let e := { akaEngine with mcc := 999, mnc := 0 }
     let v (n : BitVec 5) := stubVectors n e.k.bytes e.opc.bytes e.rand.bytes e.variant (amfOf e.autn.bytes)
     let maca (m : String) := (stubF1 m e.k.bytes e.opc.bytes e.rand.bytes e.variant (amfOf e.autn.bytes)
       (xorBytes (sqnakOf e.autn.bytes) (v 8).ak)).maca
     e.k.loaded = true ∧ e.opc.loaded = true ∧ e.rand.loaded = true ∧ e.autn.loaded = true ∧
     e.mcc.toNat ≤ 999 ∧ e.mnc.toNat ≤ 999 ∧ ¬ (1 ≤ (v 0).resLen.toNat ∧ (v 0).resLen.toNat ≤ 16) ∧
     (1 ≤ (v 16).resLen.toNat ∧ (v 16).resLen.toNat ≤ 16) ∧
     maca "8899aabbccddeefe" ≠ macnOf e.autn.bytes ∧ maca "8899aabbccddeeff" = macnOf e.autn.bytes) := by
  decide +kernel

theorem witness_BcdEncResult :
    (let digit (e : Engine) (i : Nat) := hexval (byteAt e.bcdText.bytes i)
     Engine.reset.bcdText.loaded = false ∧ (bcdEngine "1" 17 0).bcdText.loaded = true ∧
     16 < (bcdEngine "1" 17 0).ndig.toNat ∧ digit (bcdEngine "12g4" 4 0) 2 = none ∧
     (bcdEngine "0123456789abcdef" 16 0).ndig.toNat ≤ 16 ∧
     (∀ i < 16, digit (bcdEngine "0123456789abcdef" 16 0) i ≠ none) ∧
     (∀ i < 1, digit (bcdEngine "7" 1 0xF) i ≠ none)) := by decide +kernel

theorem witness_BcdDecResult :
    Engine.reset.bcdPacked.loaded = false ∧
      (let e : Engine := { Engine.reset with bcdPacked := .full (hex 8 ""), ndig := 17 }
       e.bcdPacked.loaded = true ∧ 16 < e.ndig.toNat ∧ ({ e with ndig := 16 } : Engine).ndig.toNat ≤ 16) := by
  decide +kernel

/-- An odd number of digits, one of them in upper case. -/
theorem witness_BcdRoundTrip :
    (let s := idle (bcdEngine "12aB5" 5 0xF)
     s.engine.bcdText.loaded = true ∧ s.engine.ndig.toNat ≤ 16 ∧
     ∀ i < s.engine.ndig.toNat, hexval (byteAt s.engine.bcdText.bytes i) ≠ none) := by decide +kernel

/-- A MAC mismatch with the stub port ends in AUTH_FAILURE; KDF_RESSTAR is another command that answers. -/
theorem witness_AuthFailureWipesCkIkRes :
    (let r := akaCore (stubVectors 8) (stubF1 "8899aabbccddeefe") true akaEngine
     (after (complete r (idle akaEngine))).engine.errcode = .authFailure) ∧
      Instr.kdfResstar.isCmdWord = true ∧ Instr.kdfResstar ≠ .akaVerify ∧ Instr.kdfResstar ≠ .akaAuth ∧
      ∃ t, exec .kdfResstar State.reset = .next t :=
  ⟨by decide +kernel, by decide, by decide, by decide, ⟨_, rfl⟩⟩

theorem witness_KdfStringLayout :
    (List.replicate 16 (0 : Byte)).length = 16 ∧ 1 ≤ ([0xA1] : List Byte).length ∧
      (List.replicate 16 (0 : Byte)).length ≤ 16 ∧ 999 ≤ 999 ∧ 0 ≤ 999 := by decide

theorem witness_DecimalDigitsSpellNumber : 999 ≤ 999 ∧ 93 ≤ 999 ∧ 0 ≤ 999 := by decide

theorem witness_PaddingIsLeastMultipleOfBlock : ((List.replicate 55 0x61 : List Byte).length < 2 ^ 61) ∧
    (List.replicate 55 (0x61 : Byte)).length + 1 + 0 + 8 = 64 := by decide

theorem witness_Sha256FollowsComputation :
    (((List.range 312).filter fun p => 2 ≤ p && (List.range p).all fun d => d < 2 || p % d != 0).zip
        roundConstants)[63]? = some (311, 0xc67178f2) ∧
      (messageBlocks [])[0]? = some (0x80000000 :: List.replicate 15 0) ∧
      (List.replicate 16 (1 : Word)).length = 16 ∧ 16 ≤ 63 ∧ 63 < 64 := by
  decide +kernel

theorem witness_HmacBlocks :
    (List.replicate 32 (0 : Byte)).length = 32 ∧ 56 ≤ (List.replicate 56 (0 : Byte)).length ∧
      (List.replicate 71 (0 : Byte)).length ≤ 71 := by decide

/-- Reset meets the invariant, and a step from it answers. -/
theorem witness_StepKeepsInvariant : State.reset.Inv ∧ ∃ t, step State.reset = .next t := by
  have wf (n m : Nat) : (Tracked.cleared n m).Wf := by
    intro w _ _
    simp [Tracked.cleared, wordOf, byteAt, zeroBytes]
  refine ⟨⟨⟨?_, ?_, ?_, ?_, ?_, ?_, ?_, ?_, ?_, ?_, ?_, ?_, ?_, ?_⟩, ?_⟩, ⟨_, rfl⟩⟩ <;>
    first | decide | exact wf _ _

/-- A state that holds a RES\* of AKA_AUTH, at the gate, and its step. -/
theorem witness_StepKeepsGate :
    Gate (some (.akaAuth, .none)) (idle { Engine.reset with resstarValid := true, macOk := true }) ∧
      ∃ t, step (idle { Engine.reset with resstarValid := true, macOk := true }) = .next t :=
  ⟨fun _ => .inr ⟨rfl, rfl⟩, ⟨_, rfl⟩⟩

/-- Two systems with different keys, the same but for them, before a read of K. -/
theorem witness_KeysCannotBeReadBack :
    (let p : List TxWord := [0x03000000000]
     let s : State := { idle { Engine.reset with k := loaded16 "01" } with program := p }
     let s' : State := { idle { Engine.reset with k := loaded16 "02" } with program := p }
     s.hideKeys = s'.hideKeys ∧ s ≠ s' ∧ (nextMove s).callsPort = false) := by decide +kernel

/-- A step that leaves BUSY, one that stays BUSY, and one that leaves IDLE. -/
theorem witness_PhaseChangesOnlyByAcceptCompletionReset :
    (∃ t, step (busy 6 0) = .next t ∧ t.engine.phase = .idle) ∧
      (∃ t, step { busy 6 2 with program := [0x01000000000] } = .next t ∧ t.engine.phase = .busy 6 1) ∧
      ∃ t n, step { State.reset with program := [0x10c00000006] } = .next t ∧ t.engine.phase = .busy 6 n :=
  ⟨⟨_, rfl, rfl⟩, ⟨_, rfl, rfl⟩, ⟨_, _, rfl, rfl⟩⟩

theorem witness_BusyInputsStayAsAccepted :
    (Instr.wr 0x50 1).isCmdWord = false ∧ (busy 1 2).engine.phase = .busy 1 2 ∧
      (∃ t, exec (.wr 0x50 1) (busy 1 2) = .next t) ∧ ∃ t, exec (.wr 0x08 2) (busy 1 2) = .next t :=
  ⟨by decide, rfl, ⟨_, rfl⟩, ⟨_, rfl⟩⟩

theorem witness_PendingCommandProgresses :
    (busy 6 2).engine.phase = .busy 6 2 ∧ ∃ t, step { busy 6 2 with program := [0x01000000000] } = .next t :=
  ⟨rfl, ⟨_, rfl⟩⟩

theorem witness_WaitEndsWithTheCompletion :
    (let s : State := { busy 6 3 with program := [0x21000000001] }
     s.rst = [] ∧ s.engine.phase = .busy 6 3 ∧ s.program[s.pc]? = some 0x21000000001 ∧
     ∃ u, exec (decodeCmd 6) s = .next u) :=
  ⟨rfl, rfl, rfl, ⟨_, rfl⟩⟩

/-- `irq` rises at a completion and at a write of IRQ_EN, and falls at a W1C of DONE. -/
theorem witness_IrqRisesAndFallsOnlyAsListed :
    (let s : State := idle { Engine.reset with phase := .busy 6 0, irqEn := true }
     s.engine.irq = false ∧ ∃ t, step s = .next t ∧ t.engine.irq = true) ∧
      (let s : State := { idle { Engine.reset with done := true } with program := [0x10800000001] }
       s.engine.irq = false ∧ ∃ t, step s = .next t ∧ t.engine.irq = true) ∧
      (let s : State := { idle { Engine.reset with done := true, irqEn := true } with program := [0x11000000002] }
       s.engine.irq = true ∧ ∃ t, step s = .next t ∧ t.engine.irq = false) :=
  ⟨⟨rfl, _, rfl, rfl⟩, ⟨rfl, _, rfl, rfl⟩, ⟨rfl, _, rfl, rfl⟩⟩

end Sys2Proof.Tests
end

section
/-!
# Numbers as bytes (00_scope.md R9)

The digits that `dec3` writes, and that they spell the number.
-/
namespace Sys2Proof.Machine

/-- The hundreds digit of a number up to 999 needs no reduction modulo 10, which is why three digits are enough. -/
theorem hundreds_mod_ten {n : Nat} (hn : n ≤ 999) : n / 100 % 10 = n / 100 :=
  Nat.mod_eq_of_lt (Nat.div_lt_of_lt_mul (Nat.lt_succ_of_le hn))

/-- The digits `dec3` writes, weighted by their places, add up to the number. -/
theorem eq_weighted_sum_of_dec3_digits {n : Nat} (hn : n ≤ 999) :
    n = 100 * (n / 100 % 10) + 10 * (n / 10 % 10) + n % 10 := by
  rw [hundreds_mod_ten hn]
  omega

/-- Settles O46: the three remainders modulo 10 that `dec3` writes are the digits. -/
theorem decimalDigitsSpellNumber : Obligations.DecimalDigitsSpellNumber := by
  intro n hn
  have digit_le (m : Nat) : m % 10 ≤ 9 := Nat.le_of_lt_succ (Nat.mod_lt m (by decide))
  exact ⟨n / 100 % 10, n / 10 % 10, n % 10, digit_le _, digit_le _, digit_le _,
    eq_weighted_sum_of_dec3_digits hn, rfl⟩

end Sys2Proof.Machine
end

section
/-!
# Registers over the bus: what RD and WR of one register do (20_memory.md R65, R68, R75;
70_reset_and_hazards.md R270, R271)
-/
namespace Sys2Proof.Machine

/-- In IDLE a write outside CTRL and STATUS accepts a command or stores in a register (R68). -/
theorem State.writeReg_of_idle {s : State} {r : Reg} {v : Word} (hc : r ≠ .ctrl) (hs : r ≠ .status)
    (hp : s.engine.phase = .idle) :
    s.writeReg r v = if r = .cmd then s.accept v else { s with engine := s.engine.storeReg r v } := by
  cases r
  case ctrl => exact absurd rfl hc
  case status => exact absurd rfl hs
  all_goals simp only [State.writeReg, hp]

/-- While BUSY a write outside CTRL and STATUS is dropped, and sets WERR if its register is writable (R271). -/
theorem State.writeReg_of_busy {s : State} {r : Reg} {v : Word} {p : Word} {n : Nat} (hc : r ≠ .ctrl)
    (hs : r ≠ .status) (hp : s.engine.phase = .busy p n) :
    s.writeReg r v = if regWritable r then { s with engine := { s.engine with werr := true } } else s := by
  cases r
  case ctrl => exact absurd rfl hc
  case status => exact absurd rfl hs
  all_goals simp only [State.writeReg, hp]

section
variable {off : BitVec 8} {r : Reg} (ha : off.toNat % 4 = 0) (hr : regAt off = r)
include ha hr

/-- RD of a register records the value read and advances; of the rest only the draw counter can change. -/
theorem exec_rd (s : State) :
    exec (.rd off) s = .next { s with
      pc := s.pc + 1, results := ⟨s.pc, off, (s.readReg r).1⟩ :: s.results, draws := (s.readReg r).2.draws } := by
  obtain ⟨d, hd⟩ := s.readReg_state r
  have hrd : exec (.rd off) s = execRd off s := rfl
  rw [hrd, execRd_eq, if_pos ha, hr, hd]
  rfl

/-- RD of a register no pending command makes unspecified records its value. -/
theorem exec_rd_quiet {s : State} (h : ∀ p n, s.engine.phase = .busy p n → unspecifiedBits (decodeCmd p) r = 0) :
    exec (.rd off) s = .next { s with
      pc := s.pc + 1, results := ⟨s.pc, off, s.engine.readReg r⟩ :: s.results } := by
  rw [exec_rd ha hr, State.readReg_quiet h]

/-- WR of a register is its write and the advance. -/
theorem exec_wr (v : Word) (s : State) : exec (.wr off v) s = .next (s.writeReg r v).advance := by
  have hwr : exec (.wr off v) s = execWr off v s := rfl
  rw [hwr, execWr_eq, if_pos ha, hr]

/-- In IDLE a WR of a register other than CTRL, STATUS and CMD stores in it. -/
theorem exec_wr_store (hc : r ≠ .ctrl) (hs : r ≠ .status) (hcmd : r ≠ .cmd) (v : Word) {s : State}
    (hp : s.engine.phase = .idle) :
    exec (.wr off v) s = .next { s with pc := s.pc + 1, engine := s.engine.storeReg r v } := by
  rw [exec_wr ha hr, State.writeReg_of_idle hc hs hp, if_neg hcmd]
  rfl

end

/-- A register that is not writable (R271) stores nothing. -/
theorem Engine.storeReg_ignored {r : Reg} (h : regWritable r = false) (e : Engine) (v : Word) :
    e.storeReg r v = e := by
  cases r with
  | data f w =>
    cases f
    case resstar | sqn | maca => rfl
    all_goals cases h
  | mcc | mnc | resLen | variant | bcdCtrl | cmd => cases h
  | id | version | ctrl | status | loaded | reserved => rfl

/-- A WR to a register that is neither writable (R271) nor CTRL or STATUS is ignored in every phase (R72). -/
theorem exec_wr_ignored {off : BitVec 8} {r : Reg} (ha : off.toNat % 4 = 0) (hr : regAt off = r) (hc : r ≠ .ctrl)
    (hs : r ≠ .status) (hw : regWritable r = false) (v : Word) (s : State) :
    exec (.wr off v) s = .next { s with pc := s.pc + 1 } := by
  cases hp : s.engine.phase with
  | idle =>
    have hcmd : r ≠ .cmd := by
      rintro rfl
      cases hw
    rw [exec_wr_store ha hr hc hs hcmd v hp, Engine.storeReg_ignored hw]
  | busy p n =>
    rw [exec_wr ha hr, State.writeReg_of_busy hc hs hp, hw, if_neg Bool.false_ne_true]
    rfl

/-- A read shows the register's own bit wherever the pending command leaves the bit specified (R270). -/
theorem State.readReg_getLsbD {s : State} {r : Reg} {i : Nat}
    (h : ∀ p n, s.engine.phase = .busy p n → (unspecifiedBits (decodeCmd p) r).getLsbD i = false) :
    (s.readReg r).1.getLsbD i = (s.engine.readReg r).getLsbD i := by
  rcases s.readReg_cases r with hr | ⟨p, n, hp, -, hr⟩ <;> rw [hr]
  simpa [BitVec.getLsbD_or, h p n hp] using BitVec.lt_of_getLsbD

/-- A read shows the register's own field wherever the pending command leaves the field specified (R270). -/
theorem State.readReg_extractLsb' {s : State} {r : Reg} {i n : Nat}
    (h : ∀ p k, s.engine.phase = .busy p k → (unspecifiedBits (decodeCmd p) r).extractLsb' i n = 0) :
    (s.readReg r).1.extractLsb' i n = (s.engine.readReg r).extractLsb' i n := by
  apply BitVec.eq_of_getLsbD_eq
  intro j hj
  have own := State.readReg_getLsbD (s := s) (r := r) (i := i + j) fun p k hp => by
    simpa [hj] using congrArg (BitVec.getLsbD · j) (h p k hp)
  simp only [BitVec.getLsbD_extractLsb', own]

/-! ### ID, VERSION, CTRL and the parameter registers -/

/-- Settles O14: no command makes ID or VERSION unspecified, and neither is writable. -/
theorem idAndVersionAreConstant : Obligations.IdAndVersionAreConstant := fun s v =>
  ⟨exec_rd_quiet rfl regAt_id fun _ _ _ => rfl, exec_rd_quiet rfl regAt_version fun _ _ _ => rfl,
    exec_wr_ignored rfl regAt_id nofun nofun rfl v s, exec_wr_ignored rfl regAt_version nofun nofun rfl v s⟩

/-- CTRL reads IRQ_EN in bit 0 (R23). -/
theorem Engine.readReg_ctrl (e : Engine) : e.readReg .ctrl = if e.irqEn then 1 else 0 := by
  cases h : e.irqEn <;> simp [Engine.readReg, h]

/-- Settles O15: bit 1 of a CTRL write chooses between a soft reset and IRQ_EN, and no command makes CTRL
unspecified. -/
theorem ctrlWritesAndReads : Obligations.CtrlWritesAndReads := by
  intro s v
  have wrote : exec (.wr 0x08 v) s = .next (s.ctrlWrite v).advance := exec_wr rfl regAt_ctrl v s
  refine ⟨fun hv => ?_, fun hv => ?_, ?_, ?_, rfl⟩
  · rw [wrote, State.ctrlWrite, hv]
    rfl
  · rw [wrote, State.ctrlWrite, hv]
    rfl
  · rw [← Engine.readReg_ctrl]
    exact exec_rd_quiet rfl regAt_ctrl fun _ _ _ => rfl
  · simp [Engine.irq]

/-- Settles O25: in IDLE a write stores in the register its offset selects. -/
theorem parameterRegisterWrites : Obligations.ParameterRegisterWrites := fun _ v hp =>
  ⟨exec_wr_store rfl regAt_mcc nofun nofun nofun v hp, exec_wr_store rfl regAt_mnc nofun nofun nofun v hp,
    exec_wr_store rfl regAt_resLen nofun nofun nofun v hp, exec_wr_store rfl regAt_variant nofun nofun nofun v hp,
    exec_wr_store rfl regAt_bcdCtrl nofun nofun nofun v hp⟩

/-! ### STATUS -/

/-- The single-bit flags of STATUS, and bit 7, which is reserved (R35). -/
theorem statusWord_flags (e : Engine) :
    (statusWord e).getLsbD 0 = e.isBusy ∧ (statusWord e).getLsbD 1 = e.done ∧ (statusWord e).getLsbD 2 = e.err ∧
    (statusWord e).getLsbD 3 = e.werr ∧ (statusWord e).getLsbD 4 = e.resstarValid ∧
    (statusWord e).getLsbD 5 = e.sqnValid ∧ (statusWord e).getLsbD 6 = e.macOk ∧
    (statusWord e).getLsbD 7 = false := by
  simp only [statusWord, BitVec.getLsbD_append]
  simp

/-- From bit 8 on STATUS is ERRCODE below zeros (R35). -/
theorem statusWord_getLsbD_add_eight (e : Engine) (i : Nat) :
    (statusWord e).getLsbD (i + 8) = (decide (i < 4) && e.errcode.code.getLsbD i) := by
  simp only [statusWord, BitVec.getLsbD_append]
  simp

theorem statusWord_errcode (e : Engine) : (statusWord e).extractLsb' 8 4 = e.errcode.code := by
  apply BitVec.eq_of_getLsbD_eq
  intro i hi
  simp [Nat.add_comm 8 i, statusWord_getLsbD_add_eight, hi]

theorem statusWord_reserved (e : Engine) : (statusWord e).extractLsb' 12 20 = 0 := by
  apply BitVec.eq_of_getLsbD_eq
  intro i hi
  have hbit : 12 + i = (i + 4) + 8 := by omega
  simp [BitVec.getLsbD_extractLsb', hbit, statusWord_getLsbD_add_eight]

/-- A STATUS write clears what its W1C bits select (R35). -/
theorem Engine.statusWrite_eq (e : Engine) (v : Word) :
    e.statusWrite v = { e with
      done := if v[1] then false else e.done
      err := if v[2] then false else e.err
      errcode := if v[2] then .none else e.errcode
      werr := if v[3] then false else e.werr } := by
  cases h1 : v[1] <;> cases h2 : v[2] <;> cases h3 : v[3] <;> simp [Engine.statusWrite, h1, h2, h3]

/-- Settles O16: the only bits of STATUS that R270 leaves unspecified are the three valid flags, bits 4 to 6. -/
theorem statusWritesAndReads : Obligations.StatusWritesAndReads := by
  intro s v
  refine ⟨?_, (s.readReg .status).1, (s.readReg .status).2.draws, exec_rd rfl regAt_status s, ?_⟩
  · rw [← Engine.statusWrite_eq]
    exact exec_wr rfl regAt_status v s
  · obtain ⟨hBusy, hDone, hErr, hWerr, hResstar, hSqn, hMac, hReserved⟩ := statusWord_flags s.engine
    have bit {i : Nat} (hi : (0x70 : Word).getLsbD i = false) :
        (s.readReg .status).1.getLsbD i = (statusWord s.engine).getLsbD i :=
      State.readReg_getLsbD fun _ _ _ => hi
    have field {i n : Nat} (hi : (0x70 : Word).extractLsb' i n = 0) :
        (s.readReg .status).1.extractLsb' i n = (statusWord s.engine).extractLsb' i n :=
      State.readReg_extractLsb' fun _ _ _ => hi
    refine ⟨(bit (i := 0) rfl).trans hBusy, (bit (i := 1) rfl).trans hDone, (bit (i := 2) rfl).trans hErr,
      (bit (i := 3) rfl).trans hWerr, (bit (i := 7) rfl).trans hReserved,
      (field (by decide)).trans (statusWord_errcode _), (field (by decide)).trans (statusWord_reserved _),
      fun hp => ?_⟩
    rw [State.readReg_idle hp]
    exact ⟨hResstar, hSqn, hMac⟩

/-! ### LOADED -/

/-- A field is loaded exactly if each of its mask bits is set (R57). -/
theorem Tracked.loaded_iff {n m : Nat} (f : Tracked n m) :
    f.loaded = true ↔ ∀ w < m, f.mask.getLsbD w = true := by
  simp only [Tracked.loaded, beq_iff_eq]
  constructor
  · intro h w hw
    simp [h, hw]
  · intro h
    apply BitVec.eq_of_getLsbD_eq
    intro w hw
    simp [h w hw, hw]

/-- `loaded(F)` of a tracked field, and false of a read-only one, which has no mask (R57). -/
def Engine.fieldLoaded (e : Engine) : Field → Bool
  | .k => e.k.loaded
  | .opc => e.opc.loaded
  | .rand => e.rand.loaded
  | .autn => e.autn.loaded
  | .res => e.res.loaded
  | .ck => e.ck.loaded
  | .ik => e.ik.loaded
  | .bcdText => e.bcdText.loaded
  | .bcdPacked => e.bcdPacked.loaded
  | .resstar | .sqn | .maca => false

theorem Engine.fieldLoaded_iff (e : Engine) (f : Field) :
    e.fieldLoaded f = true ↔ ∀ w < fieldWords f, e.maskBit f w = true := by
  cases f
  case resstar | sqn | maca => exact ⟨nofun, fun h => h 0 (by decide)⟩
  all_goals exact Tracked.loaded_iff _

/-- Bit `t` of LOADED is `loaded(F)` of the field with tracked bit `t` (R36). -/
theorem loadedWord_getLsbD (e : Engine) {t : Nat} {f : Field}
    (h : [Field.k, .opc, .rand, .autn, .res, .ck, .ik, .bcdText, .bcdPacked][t]? = some f) :
    (loadedWord e).getLsbD t = e.fieldLoaded f := by
  have ht : t < 9 := (List.getElem?_eq_some_iff.mp h).1
  simp only [loadedWord, BitVec.getLsbD_append]
  interval_cases t <;> cases h <;> simp [Engine.fieldLoaded]

theorem loadedWord_reserved (e : Engine) : (loadedWord e).extractLsb' 9 23 = 0 := by
  apply BitVec.eq_of_getLsbD_eq
  intro i hi
  simp only [BitVec.getLsbD_extractLsb', Nat.add_comm 9 i, loadedWord, BitVec.getLsbD_append]
  simp

/-- Settles O17: R270 leaves only bits 0 to 8 of LOADED unspecified, and LOADED is not writable. -/
theorem loadedShowsWriteMasks : Obligations.LoadedShowsWriteMasks := by
  intro s
  refine ⟨rfl, fun v => exec_wr_ignored rfl regAt_loaded nofun nofun rfl v s, (s.readReg .loaded).1,
    (s.readReg .loaded).2.draws, exec_rd rfl regAt_loaded s, ?_, fun hp t f ht => ?_⟩
  · have specified : (0x1FF : Word).extractLsb' 9 23 = 0 := by decide
    exact (State.readReg_extractLsb' fun _ _ _ => specified).trans (loadedWord_reserved s.engine)
  · rw [State.readReg_idle hp, ← Engine.fieldLoaded_iff]
    exact Bool.eq_iff_iff.mp (loadedWord_getLsbD s.engine ht)

end Sys2Proof.Machine
end

section
/-!
# Every step keeps the invariant (10_state.md R29, R50 to R52, R57, R59; 70_reset_and_hazards.md R270)

Each update of the engine by a named operation keeps `Engine.Inv`, so each command's pseudocode does, and so does each
register write. A step is one of these with the counter moved by at most one word of the program.
-/
namespace Sys2Proof.Machine

/-! ### Updates of the engine -/

theorem Engine.reset_inv : Engine.reset.Inv where
  busyQuiet := nofun
  errCode := rfl
  resstarZero _ := rfl
  sqnZero _ := ⟨rfl, rfl⟩
  macSqn := nofun
  kWf := Tracked.cleared_wf 16 4
  opcWf := Tracked.cleared_wf 16 4
  randWf := Tracked.cleared_wf 16 4
  autnWf := Tracked.cleared_wf 16 4
  resWf := Tracked.cleared_wf 16 4
  ckWf := Tracked.cleared_wf 16 4
  ikWf := Tracked.cleared_wf 16 4
  bcdTextWf := Tracked.cleared_wf 16 4
  bcdPackedWf := Tracked.cleared_wf 8 2

section
variable {e : Engine} (h : e.Inv)
include h

theorem Engine.Inv.statusWrite (v : Word) : (e.statusWrite v).Inv :=
  { h with
    busyQuiet hb := by
      obtain ⟨hd, he, hc⟩ := h.busyQuiet hb
      simp [hd, he, hc]
    errCode := by cases hv : v[2] <;> simp [hv, h.errCode] }

theorem Engine.Inv.accept (p : Word) (n : Nat) : (e.accept p n).Inv :=
  { h with busyQuiet _ := ⟨rfl, rfl, rfl⟩, errCode := rfl }

theorem Engine.Inv.report (c : ErrCode) : (e.report c).Inv :=
  { h with busyQuiet := nofun, errCode := rfl }

theorem Engine.Inv.clearResstar : e.clearResstar.Inv :=
  { h with resstarZero _ := rfl }

theorem Engine.Inv.deriveResstar : e.deriveResstar.Inv :=
  { h with resstarZero := nofun }

theorem Engine.Inv.akaClear : e.akaClear.Inv :=
  { h with resstarZero _ := rfl, sqnZero _ := ⟨rfl, rfl⟩, macSqn := nofun }

theorem Engine.Inv.akaRecovered (f1 : F1Port) (v : VectorsReply) : (e.akaRecovered f1 v).Inv :=
  { h.akaClear with sqnZero := nofun, macSqn _ := rfl }

theorem Engine.Inv.wipe : e.wipe.Inv :=
  { h with
    ckWf := Tracked.cleared_wf 16 4
    ikWf := Tracked.cleared_wf 16 4
    resWf := Tracked.cleared_wf 16 4 }

theorem Engine.Inv.installVectors (hs : e.sqnValid = true) (v : VectorsReply) : (e.installVectors v).Inv :=
  { h with
    macSqn _ := hs
    ckWf := Tracked.full_wf v.ck
    ikWf := Tracked.full_wf v.ik
    resWf := Tracked.full_wf _ }

/-! A tracked field may take any value in which an unloaded word is 0. -/

theorem Engine.Inv.with_k {x : Tracked 16 4} (hx : x.Wf) : Engine.Inv { e with k := x } :=
  { h with kWf := hx }
theorem Engine.Inv.with_opc {x : Tracked 16 4} (hx : x.Wf) : Engine.Inv { e with opc := x } :=
  { h with opcWf := hx }
theorem Engine.Inv.with_rand {x : Tracked 16 4} (hx : x.Wf) : Engine.Inv { e with rand := x } :=
  { h with randWf := hx }
theorem Engine.Inv.with_autn {x : Tracked 16 4} (hx : x.Wf) : Engine.Inv { e with autn := x } :=
  { h with autnWf := hx }
theorem Engine.Inv.with_res {x : Tracked 16 4} (hx : x.Wf) : Engine.Inv { e with res := x } :=
  { h with resWf := hx }
theorem Engine.Inv.with_ck {x : Tracked 16 4} (hx : x.Wf) : Engine.Inv { e with ck := x } :=
  { h with ckWf := hx }
theorem Engine.Inv.with_ik {x : Tracked 16 4} (hx : x.Wf) : Engine.Inv { e with ik := x } :=
  { h with ikWf := hx }
theorem Engine.Inv.with_bcdText {x : Tracked 16 4} (hx : x.Wf) : Engine.Inv { e with bcdText := x } :=
  { h with bcdTextWf := hx }
theorem Engine.Inv.with_bcdPacked {x : Tracked 8 2} (hx : x.Wf) : Engine.Inv { e with bcdPacked := x } :=
  { h with bcdPackedWf := hx }

/-- A host write to a register sets parameter bits, which the invariant does not mention, or writes a word of a tracked
field, which loads that word (R57). -/
theorem Engine.Inv.storeReg (r : Reg) (v : Word) : (e.storeReg r v).Inv := by
  rcases r with _ | _ | _ | _ | _ | _ | _ | _ | _ | _ | _ | ⟨f, w⟩ | _
  case data =>
    cases f
    case k => exact h.with_k (Tracked.hostWrite_wf h.kWf w v)
    case opc => exact h.with_opc (Tracked.hostWrite_wf h.opcWf w v)
    case rand => exact h.with_rand (Tracked.hostWrite_wf h.randWf w v)
    case autn => exact h.with_autn (Tracked.hostWrite_wf h.autnWf w v)
    case res => exact h.with_res (Tracked.hostWrite_wf h.resWf w v)
    case ck => exact h.with_ck (Tracked.hostWrite_wf h.ckWf w v)
    case ik => exact h.with_ik (Tracked.hostWrite_wf h.ikWf w v)
    case bcdText => exact h.with_bcdText (Tracked.hostWrite_wf h.bcdTextWf w v)
    case bcdPacked => exact h.with_bcdPacked (Tracked.hostWrite_wf h.bcdPackedWf w v)
    case resstar | sqn | maca => exact h
  all_goals exact { h with }

/-! ### Commands -/

theorem Engine.Inv.kdfResstarRun : (kdfResstarRun e).engine.Inv := by
  rcases kdfResstarRun_cases e with ⟨_, hr⟩ | ⟨_, _, hr⟩ | ⟨_, _, _, hr⟩ | ⟨_, _, _, hr⟩ <;> rw [hr]
  case inr.inr.inr => exact h.clearResstar.deriveResstar
  all_goals exact h.clearResstar

theorem Engine.Inv.akaCore (vectors : VectorsPort) (f1 : F1Port) (auth : Bool) :
    (akaCore vectors f1 auth e).engine.Inv := by
  have recovered := h.akaRecovered f1 (e.callVectors vectors)
  have installed := recovered.installVectors rfl (e.callVectors vectors)
  rcases akaCore_cases vectors f1 auth e with
    ⟨_, hr⟩ | ⟨_, _, _, hr⟩ | ⟨_, _, _, hr⟩ | ⟨_, _, _, _, hr⟩ | ⟨_, _, _, _, hr⟩ <;> rw [hr]
  · exact h.akaClear
  · exact h.akaClear
  · exact h.akaClear.wipe
  · exact recovered.wipe
  · cases auth
    · exact installed
    · exact installed.deriveResstar

theorem Engine.Inv.bcdEncRun : (bcdEncRun e).engine.Inv := by
  rcases bcdEncRun_cases e with ⟨_, hr⟩ | ⟨_, _, hr⟩ | ⟨_, _, _, hr⟩ | ⟨_, _, _, hr⟩ <;> rw [hr]
  case inr.inr.inr => exact h.with_bcdPacked (Tracked.full_wf _)
  all_goals exact h

theorem Engine.Inv.bcdDecRun : (bcdDecRun e).engine.Inv := by
  rcases bcdDecRun_cases e with ⟨_, hr⟩ | ⟨_, _, hr⟩ | ⟨_, _, hr⟩ <;> rw [hr]
  case inr.inr => exact h.with_bcdText (Tracked.full_wf _)
  all_goals exact h

/-- ZEROIZE leaves the reset value of everything the invariant mentions but the flags of the report (R205). -/
theorem Engine.Inv.zeroizeRun : (zeroizeRun e).engine.Inv :=
  { Engine.reset_inv with busyQuiet := h.busyQuiet, errCode := h.errCode }

end

/-- The completion of any command word keeps the engine's invariant. -/
theorem exec_command_engine_inv {i : Instr} (hi : i.isCmdWord = true) {s t : State} (h : s.engine.Inv)
    (ht : exec i s = .next t) : t.engine.Inv := by
  cases i with
  | kdfResstar => rw [complete_next ht]; exact h.kdfResstarRun.report _
  | akaVerify => rw [complete_next ht]; exact (h.akaCore ..).report _
  | akaAuth => rw [complete_next ht]; exact (h.akaCore ..).report _
  | bcdEnc => rw [complete_next ht]; exact h.bcdEncRun.report _
  | bcdDec => rw [complete_next ht]; exact h.bcdDecRun.report _
  | zeroize => rw [complete_next ht]; exact h.zeroizeRun.report _
  | illegal w => rw [complete_next ht]; exact h.report _
  | rd | wr | poll => cases hi

/-! ### Host transactions -/

theorem State.writeReg_engine_inv {s : State} (h : s.engine.Inv) (r : Reg) (v : Word) :
    (s.writeReg r v).engine.Inv := by
  rcases s.writeReg_cases r v with ⟨_, _, hw⟩ | ⟨_, _, hw⟩ | ⟨_, hw⟩ | ⟨_, _, _, _, hw⟩ | ⟨_, _, _, _, hw⟩ |
    ⟨_, _, hw⟩ | ⟨_, _, _, _, hw⟩ <;> rw [hw]
  · exact Engine.reset_inv
  · exact { h with }
  · exact h.statusWrite v
  · exact { h with }
  · exact h
  · exact h.accept v _
  · exact h.storeReg r v

/-- A host transaction keeps the engine's invariant: a read leaves the engine alone, a WR is one register write. -/
theorem exec_tx_engine_inv {i : Instr} (hi : i.isCmdWord = false) {s t : State} (h : s.engine.Inv)
    (ht : exec i s = .next t) : t.engine.Inv := by
  obtain ⟨-, -, -, ⟨-, he⟩ | ⟨off, v, -, -, -, he⟩⟩ := exec_tx_cases hi ht <;> rw [he]
  · exact h
  · exact State.writeReg_engine_inv h (regAt off) v

theorem State.passSlot_engine_inv {s : State} (h : s.engine.Inv) : s.passSlot.engine.Inv := by
  obtain ⟨ph, hs, ⟨rfl, -⟩ | ⟨p, n, hp, -⟩⟩ := s.passSlot_eq <;> rw [hs]
  · exact h
  · exact { h with busyQuiet _ := h.busyQuiet (by simp [Engine.isBusy, hp]) }

/-- Settles O51: a step is a reset, a completion, a transaction or a wait, and only a transaction, which has a program
word at the counter, moves the counter. -/
theorem stepKeepsInvariant : Obligations.StepKeepsInvariant := by
  intro s t h ht
  obtain ⟨hEngine, hPc⟩ := h
  rcases step_cases ht with ⟨l, -, -, rfl⟩ | ⟨p, n, -, -, -, he⟩ | ⟨w, i, hf, -, hd, -, he⟩ | ⟨-, -, -, rfl⟩
  · exact ⟨Engine.reset_inv, hPc⟩
  · have hi := decodeCmd_isCmdWord p
    refine ⟨exec_command_engine_inv (s := { s with rst := s.rst.tail }) hi hEngine he, ?_⟩
    obtain ⟨r, hr⟩ := exec_command hi { s with rst := s.rst.tail }
    cases hr.symm.trans he
    exact hPc
  · have hi := decodeTx_isTx hd
    refine ⟨exec_tx_engine_inv hi (State.passSlot_engine_inv (s := { s with rst := s.rst.tail }) hEngine) he, ?_⟩
    have hlt : s.pc < s.program.length := (List.getElem?_eq_some_iff.mp hf).1
    obtain ⟨hprogram, -, hpc, -⟩ := exec_tx_cases hi he
    obtain ⟨ph, hs, -⟩ := State.passSlot_eq { s with rst := s.rst.tail }
    simp only [hs] at hprogram hpc
    rw [hprogram]
    omega
  · exact ⟨hEngine, hPc⟩

end Sys2Proof.Machine
end

section
/-!
# The keys cannot be read back (10_state.md R43, R44; 20_memory.md R81; 60_exceptions.md R230)

Hiding the keys commutes with every operation that does not call the Milenage port, up to the key bytes themselves: a
host write to K or OPC puts bytes there, so the two sides are compared with the keys hidden again. It is therefore
enough to compare a system with the same system with its keys hidden.
-/
namespace Sys2Proof.Machine

/-- The engine with the bytes of K and OPC blanked, as `State.hideKeys` does it. -/
def Engine.hideKeys (e : Engine) : Engine :=
  { e with k := ⟨zeroBytes 16, e.k.mask⟩, opc := ⟨zeroBytes 16, e.opc.mask⟩ }

/-- A command's result with the keys blanked. -/
def CmdResult.hideKeys (r : CmdResult) : CmdResult := ⟨r.engine.hideKeys, r.code⟩

/-- A move with the keys blanked in the state it is made in. -/
def Move.hideKeys : Move → Move
  | .hardReset s => .hardReset s.hideKeys
  | .run i s => .run i s.hideKeys
  | .refuse r => .refuse r
  | .wait s => .wait s.hideKeys

@[simp] theorem State.hideKeys_engine (s : State) : s.hideKeys.engine = s.engine.hideKeys := rfl
@[simp] theorem State.hideKeys_rst (s : State) : s.hideKeys.rst = s.rst := rfl
@[simp] theorem State.hideKeys_fetch (s : State) : s.hideKeys.fetch = s.fetch := rfl
@[simp] theorem Engine.hideKeys_phase (e : Engine) : e.hideKeys.phase = e.phase := rfl
@[simp] theorem Engine.hideKeys_rand (e : Engine) : e.hideKeys.rand = e.rand := rfl
@[simp] theorem Engine.hideKeys_res (e : Engine) : e.hideKeys.res = e.res := rfl
@[simp] theorem Engine.hideKeys_ck (e : Engine) : e.hideKeys.ck = e.ck := rfl
@[simp] theorem Engine.hideKeys_ik (e : Engine) : e.hideKeys.ik = e.ik := rfl
@[simp] theorem Engine.hideKeys_resLen (e : Engine) : e.hideKeys.resLen = e.resLen := rfl
@[simp] theorem Engine.hideKeys_plmnBad (e : Engine) : e.hideKeys.plmnBad = e.plmnBad := rfl

/-! ### Registers -/

/-- No register shows a key byte: K and OPC read 0, and LOADED shows the masks only (R43, R44). -/
theorem Engine.readReg_hideKeys (e : Engine) (r : Reg) : e.hideKeys.readReg r = e.readReg r := by
  cases r with
  | data f w => cases f <;> rfl
  | _ => rfl

/-- A read answers the same value, and leaves the same state but for the keys, whatever the keys are. -/
theorem State.readReg_hideKeys (s : State) (r : Reg) :
    s.hideKeys.readReg r = ((s.readReg r).1, (s.readReg r).2.hideKeys) := by
  cases hp : s.engine.phase with
  | idle =>
    rw [State.readReg_idle hp, State.readReg_idle (s := s.hideKeys) hp, State.hideKeys_engine, Engine.readReg_hideKeys]
  | busy p n =>
    by_cases hm : unspecifiedBits (decodeCmd p) r = 0 <;>
      simp only [State.readReg, State.hideKeys_engine, Engine.hideKeys_phase, Engine.readReg_hideKeys, hp, hm] <;> rfl

/-- A write to K or OPC sets the same mask bit whatever the bytes were, and no other write reads a key. -/
theorem Engine.storeReg_hideKeys (e : Engine) (r : Reg) (v : Word) :
    (e.hideKeys.storeReg r v).hideKeys = (e.storeReg r v).hideKeys := by
  cases r with
  | data f w => cases f <;> simp only [Engine.storeReg, Engine.hideKeys, Tracked.hostWrite]
  | _ => rfl

/-- A CTRL write leaves the same state but for the keys: it reads none, and a soft reset clears them. -/
theorem State.ctrlWrite_hideKeys (s : State) (v : Word) :
    (s.hideKeys.ctrlWrite v).hideKeys = (s.ctrlWrite v).hideKeys := by
  cases hv : v[1] <;> simp only [State.ctrlWrite, hv] <;> rfl

/-- A write leaves the same state but for the keys, whatever the keys are. -/
theorem State.writeReg_hideKeys (s : State) (r : Reg) (v : Word) :
    (s.hideKeys.writeReg r v).hideKeys = (s.writeReg r v).hideKeys := by
  by_cases hc : r = .ctrl
  · subst hc
    exact s.ctrlWrite_hideKeys v
  by_cases hs : r = .status
  · subst hs
    rfl
  cases hp : s.engine.phase with
  | idle =>
    have hp' : s.hideKeys.engine.phase = .idle := hp
    rw [State.writeReg_of_idle hc hs hp, State.writeReg_of_idle hc hs hp']
    split
    · rfl
    · exact congrArg (fun e => { s with engine := e }) (s.engine.storeReg_hideKeys r v)
  | busy p n =>
    have hp' : s.hideKeys.engine.phase = .busy p n := hp
    rw [State.writeReg_of_busy hc hs hp, State.writeReg_of_busy hc hs hp']
    split <;> rfl

/-! ### Commands -/

theorem kdfResstarRun_hideKeys (e : Engine) : kdfResstarRun e.hideKeys = (kdfResstarRun e).hideKeys := by
  have derived : e.hideKeys.clearResstar.deriveResstar = e.clearResstar.deriveResstar.hideKeys := rfl
  simp only [kdfResstarRun, derived, Engine.hideKeys_rand, Engine.hideKeys_res, Engine.hideKeys_ck,
    Engine.hideKeys_ik, Engine.hideKeys_resLen, Engine.hideKeys_plmnBad, apply_ite CmdResult.hideKeys]
  rfl

theorem bcdEncRun_hideKeys (e : Engine) : bcdEncRun e.hideKeys = (bcdEncRun e).hideKeys := by
  simp only [bcdEncRun, apply_ite CmdResult.hideKeys]
  rfl

theorem bcdDecRun_hideKeys (e : Engine) : bcdDecRun e.hideKeys = (bcdDecRun e).hideKeys := by
  simp only [bcdDecRun, apply_ite CmdResult.hideKeys]
  rfl

/-- Completions commute with hiding the keys where the commands' results do. -/
theorem hideOutcome_complete {r r' : CmdResult} (h : r' = r.hideKeys) (s : State) :
    hideOutcome (complete r' s.hideKeys) = hideOutcome (complete r s) := by
  subst h
  rfl

/-! ### Host transactions -/

theorem execRd_hideKeys (off : BitVec 8) (s : State) :
    hideOutcome (execRd off s.hideKeys) = hideOutcome (execRd off s) := by
  simp only [execRd_eq, State.readReg_hideKeys]
  split <;> rfl

theorem execPoll_hideKeys (off : BitVec 8) (m : Word) (s : State) :
    hideOutcome (execPoll off m s.hideKeys) = hideOutcome (execPoll off m s) := by
  simp only [execPoll_eq, State.readReg_hideKeys]
  split
  · split <;> rfl
  · rfl

theorem execWr_hideKeys (off : BitVec 8) (v : Word) (s : State) :
    hideOutcome (execWr off v s.hideKeys) = hideOutcome (execWr off v s) := by
  simp only [execWr_eq]
  split
  · exact congrArg (fun t => Host.Outcome.next t.advance) (s.writeReg_hideKeys (regAt off) v)
  · rfl

/-! ### Instructions and moves -/

/-- An instruction that does not call the port answers the same but for the keys, whatever the keys are. -/
theorem exec_hideKeys {i : Instr} {s : State} (hi : (Move.run i s).callsPort = false) :
    hideOutcome (exec i s.hideKeys) = hideOutcome (exec i s) := by
  cases i with
  | kdfResstar => exact hideOutcome_complete (kdfResstarRun_hideKeys s.engine) s
  | akaVerify | akaAuth => cases hi
  | bcdEnc => exact hideOutcome_complete (bcdEncRun_hideKeys s.engine) s
  | bcdDec => exact hideOutcome_complete (bcdDecRun_hideKeys s.engine) s
  | zeroize => exact hideOutcome_complete (r := zeroizeRun s.engine) rfl s
  | illegal w => exact hideOutcome_complete (r := illegalRun s.engine) rfl s
  | rd off => exact execRd_hideKeys off s
  | wr off v => exact execWr_hideKeys off v s
  | poll off m => exact execPoll_hideKeys off m s

/-- Whether a move calls the port does not depend on the keys. -/
theorem Move.callsPort_hideKeys (m : Move) : m.hideKeys.callsPort = m.callsPort := by
  cases m with
  | run i => cases i <;> rfl
  | hardReset | refuse | wait => rfl

theorem transactMove_hideKeys (w : TxWord) (s : State) :
    transactMove w s.hideKeys = (transactMove w s).hideKeys := by
  cases hd : decodeTx w <;> simp only [transactMove, hd, Move.hideKeys]

theorem State.passSlot_hideKeys (s : State) : s.hideKeys.passSlot = s.passSlot.hideKeys := by
  cases hp : s.engine.phase with
  | idle => simp only [State.passSlot, State.hideKeys_engine, Engine.hideKeys_phase, hp]
  | busy p n =>
    simp only [State.passSlot, State.hideKeys_engine, Engine.hideKeys_phase, hp]
    rfl

theorem liveMove_hideKeys (s : State) : liveMove s.hideKeys = (liveMove s).hideKeys := by
  simp only [liveMove, State.hideKeys_engine, Engine.hideKeys_phase, State.hideKeys_fetch, State.passSlot_hideKeys,
    transactMove_hideKeys]
  split
  · rfl
  all_goals split <;> rfl

/-- Which move comes next does not depend on the keys. -/
theorem nextMove_hideKeys (s : State) : nextMove s.hideKeys = (nextMove s).hideKeys := by
  rcases hr : s.rst with _ | ⟨_ | _, l⟩ <;> simp only [nextMove, State.hideKeys_rst, hr]
  · exact liveMove_hideKeys s
  · exact liveMove_hideKeys { s with rst := l }
  · rfl

/-- A step that does not call the port answers the same but for the keys, whatever the keys are. -/
theorem step_hideKeys {s : State} (h : (nextMove s).callsPort = false) :
    hideOutcome (step s.hideKeys) = hideOutcome (step s) := by
  simp only [step, nextMove_hideKeys]
  cases hm : nextMove s with
  | run i u => exact exec_hideKeys (hm ▸ h)
  | hardReset | refuse | wait => rfl

/-- Settles O55: both steps are compared with that of the one system with the keys hidden. -/
theorem keysCannotBeReadBack : Obligations.KeysCannotBeReadBack := by
  intro s s' heq h
  have h' : (nextMove s').callsPort = false := by
    rw [← Move.callsPort_hideKeys, ← nextMove_hideKeys] at h ⊢
    rwa [← heq]
  rw [← step_hideKeys h, heq, step_hideKeys h']

end Sys2Proof.Machine
end

section
/-!
# Host transactions: the answers of RD, WR and POLL, and the step that runs one (20_memory.md R62 to R66, R74 to R76)
-/
namespace Sys2Proof.Machine

/-! ### Misaligned offsets -/

section
variable {off : BitVec 8} (h : off.toNat % 4 ≠ 0) (s : State)
include h

theorem exec_rd_misaligned : exec (.rd off) s = .fault (.busError off) := (execRd_eq off s).trans (if_neg h)

theorem exec_wr_misaligned (v : Word) : exec (.wr off v) s = .fault (.busError off) :=
  (execWr_eq off v s).trans (if_neg h)

theorem exec_poll_misaligned (m : Word) : exec (.poll off m) s = .fault (.busError off) :=
  (execPoll_eq off m s).trans (if_neg h)

end

theorem aligned_of_exec_rd {off : BitVec 8} {s t : State} (h : exec (.rd off) s = .next t) : off.toNat % 4 = 0 := by
  by_contra ha
  rw [exec_rd_misaligned ha] at h
  cases h

theorem aligned_of_exec_wr {off : BitVec 8} {v : Word} {s t : State} (h : exec (.wr off v) s = .next t) :
    off.toNat % 4 = 0 := by
  by_contra ha
  rw [exec_wr_misaligned ha] at h
  cases h

/-- Settles O22: such an access is not legal, and a transaction makes a legal one exactly at an aligned offset. -/
theorem badAccessIsBusError : Obligations.BadAccessIsBusError := by
  intro s nbits off v
  refine ⟨fun h => ?_, fun h => ⟨exec_rd_misaligned h s, exec_wr_misaligned h s v, exec_poll_misaligned h s v⟩⟩
  have illegal : ¬ legalAccess nbits off = true := by
    simp only [legalAccess, Bool.and_eq_true, beq_iff_eq]
    omega
  simp only [busRead, busWrite, if_neg illegal, and_self]

/-! ### RD and POLL of an aligned offset -/

/-- POLL of a register records the value read, and advances if the selected bits are all 0; of the rest only the draw
counter can change. -/
theorem exec_poll {off : BitVec 8} {r : Reg} (ha : off.toNat % 4 = 0) (hr : regAt off = r) (m : Word) (s : State) :
    exec (.poll off m) s = .next { s with
      pc := if (s.readReg r).1 &&& m = 0 then s.pc + 1 else s.pc
      results := ⟨s.pc, off, (s.readReg r).1⟩ :: s.results
      draws := (s.readReg r).2.draws } := by
  obtain ⟨d, hd⟩ := s.readReg_state r
  have hpoll : exec (.poll off m) s = execPoll off m s := rfl
  rw [hpoll, execPoll_eq, if_pos ha, hr, hd]
  split <;> rfl

/-- Settles O23: both make the same read. -/
theorem pollIsReadThatRepeats : Obligations.PollIsReadThatRepeats := fun s _ m ha =>
  ⟨_, _, exec_rd ha rfl s, exec_poll ha rfl m s⟩

/-- In IDLE an RD records the register's value. -/
theorem exec_rd_idle {off : BitVec 8} {r : Reg} (ha : off.toNat % 4 = 0) (hr : regAt off = r) {s : State}
    (hp : s.engine.phase = .idle) :
    exec (.rd off) s = .next { s with
      pc := s.pc + 1, results := ⟨s.pc, off, s.engine.readReg r⟩ :: s.results } := by
  rw [exec_rd ha hr, State.readReg_idle hp]

/-- Settles O18: an IDLE read changes nothing, and no command makes CMD unspecified. -/
theorem idleReadRecordsRegister : Obligations.IdleReadRecordsRegister :=
  ⟨fun _ _ hp ha => exec_rd_idle ha rfl hp, fun _ => exec_rd_quiet rfl regAt_cmd fun _ _ _ => rfl⟩

/-! ### The step that runs a transaction -/

/-- With `rst` deasserted and no completion due, the step makes the move of the word at the counter, one slot of the BUSY
window having passed. -/
theorem nextMove_of_fetch {s : State} {w : TxWord} (hrst : s.rst.head? ≠ some true) (hw : s.program[s.pc]? = some w)
    (hp : ∀ p, s.engine.phase ≠ .busy p 0) :
    nextMove s = transactMove w (State.passSlot { s with rst := s.rst.tail }) := by
  have hf : State.fetch { s with rst := s.rst.tail } = some w := hw
  rw [nextMove_live hrst]
  rcases hph : s.engine.phase with _ | ⟨p, _ | n⟩
  · simp only [liveMove, State.passSlot, hph, hf]
  · exact absurd hph (hp p)
  · simp only [liveMove, hph, hf]

theorem step_of_fetch {s : State} {w : TxWord} {i : Instr} (hrst : s.rst.head? ≠ some true)
    (hw : s.program[s.pc]? = some w) (hi : decodeTx w = .ok i) (hp : ∀ p, s.engine.phase ≠ .busy p 0) :
    step s = exec i (State.passSlot { s with rst := s.rst.tail }) := by
  simp only [step, nextMove_of_fetch hrst hw hp, transactMove, hi]

/-- Settles O10: in IDLE no slot passes, and while BUSY with slots left one does. -/
theorem stepRunsFetchedTransaction : Obligations.StepRunsFetchedTransaction := by
  intro s w hrst hw
  refine ⟨fun i hi => ⟨fun hp => ?_, fun p n hp => ?_⟩, fun e he hp => ?_⟩
  · rw [step_of_fetch hrst hw hi (by simp [hp])]
    simp only [State.passSlot, hp]
  · rw [step_of_fetch hrst hw hi (by simp [hp])]
    simp only [State.passSlot, hp, Nat.add_sub_cancel]
  · simp only [step, nextMove_of_fetch hrst hw hp, transactMove, he]

end Sys2Proof.Machine
end

section
/-!
# Byte-array fields over the bus: lane order, read after write, load tracking (20_memory.md R66, R69, R70, R74)
-/
namespace Sys2Proof.Machine

/-! ### Lanes and bytes -/

theorem toList_getD {n : Nat} (b : ByteStr n) (j : Nat) : b.toList.getD j 0 = byteAt b j := by
  by_cases h : j < n <;> simp [byteAt, h]

/-- Lane `i` of word `w` is byte `4w + i` (R66). -/
theorem lane_wordOf {n : Nat} (b : ByteStr n) (w : Nat) {i : Nat} (hi : i < 4) :
    lane (wordOf b w) i = byteAt b (4 * w + i) := by
  apply BitVec.eq_of_getLsbD_eq
  intro j hj
  simp only [lane, wordOf, BitVec.getLsbD_extractLsb', BitVec.getLsbD_append, hj, decide_true, Bool.true_and]
  interval_cases i <;> grind

/-- The bytes after a word write: the lanes of the value in word `w`, the old bytes elsewhere (R66). -/
theorem toList_setWord {n : Nat} (b : ByteStr n) (w : Nat) (v : Word) {j : Nat} (hj : j < n) :
    (setWord b w v).toList[j]? = if j / 4 = w then some (lane v (j % 4)) else b.toList[j]? := by
  by_cases hw : j / 4 = w <;> simp [setWord, hj, hw]

/-! ### Reads of a field -/

/-- K and OPC read 0 (R70). -/
theorem Engine.readReg_data_key (e : Engine) {f : Field} (hf : f = .k ∨ f = .opc) (w : Nat) :
    e.readReg (.data f w) = 0 := by
  rcases hf with rfl | rfl <;> rfl

/-- Every other field reads its bytes in lane order (R66, R70). -/
theorem Engine.lane_readReg_data (e : Engine) {f : Field} (hk : f ≠ .k) (ho : f ≠ .opc) (w : Nat) {i : Nat}
    (hi : i < 4) : lane (e.readReg (.data f w)) i = (e.bytesOf f).getD (4 * w + i) 0 := by
  cases f
  case k => exact absurd rfl hk
  case opc => exact absurd rfl ho
  all_goals exact (lane_wordOf _ w hi).trans (toList_getD _ _).symm

/-- A field outside the write set of a command is specified while the command is pending (R270). -/
theorem unspecifiedBits_data {c : Instr} {f : Field} (h : f ∉ fieldsWritten c) (w : Nat) :
    unspecifiedBits c (.data f w) = 0 := by
  have hw : ¬ mayWrite c (.data f w) = true := by simpa [mayWrite] using h
  exact if_neg hw

/-- Settles O19: outside the write set a read shows the register's own value. -/
theorem fieldReadsInLaneOrder : Obligations.FieldReadsInLaneOrder := by
  intro s f w hw hout
  obtain ⟨hr, ha⟩ := regAt_wordOff f hw
  exact ⟨_, exec_rd_quiet ha hr fun p n hp => unspecifiedBits_data (hout p n hp) w,
    fun hf => s.engine.readReg_data_key hf w, fun hk ho _ hi => s.engine.lane_readReg_data hk ho w hi⟩

/-! ### Writes of a tracked field -/

section
variable (e : Engine) {f : Field} (hf : fieldTracked f = true) (w : Nat) (v : Word)
include hf

theorem Engine.storeReg_bytesOf {j : Nat} (hj : j < fieldBytes f) :
    ((e.storeReg (.data f w) v).bytesOf f)[j]? =
      if j / 4 = w then some (lane v (j % 4)) else (e.bytesOf f)[j]? := by
  cases f
  case resstar | sqn | maca => cases hf
  all_goals exact toList_setWord _ w v hj

theorem Engine.storeReg_maskBit_same {i : Nat} (hi : i < fieldWords f) :
    (e.storeReg (.data f w) v).maskBit f i = (e.maskBit f i || i == w) := by
  have written {n m : Nat} (x : Tracked n m) (hm : i < m) :
      (x.hostWrite w v).mask.getLsbD i = (x.mask.getLsbD i || i == w) := by
    simp only [Tracked.hostWrite_mask, hm, decide_true, Bool.true_and, beq_eq_decide]
  cases f
  case resstar | sqn | maca => cases hf
  all_goals exact written _ hi

end

theorem Engine.storeReg_data_scalars (e : Engine) (f : Field) (w : Nat) (v : Word) :
    (e.storeReg (.data f w) v).scalars = e.scalars := by
  cases f <;> simp only [Engine.storeReg, Engine.scalars]

/-- A register write that is no soft reset clears no mask bit (R69). -/
theorem State.writeReg_maskBit {s : State} {r : Reg} {v : Word} (hreset : ¬ (r = .ctrl ∧ v[1] = true)) {f : Field}
    {i : Nat} (h : s.engine.maskBit f i = true) : (s.writeReg r v).engine.maskBit f i = true := by
  rcases s.writeReg_cases r v with ⟨hc, hv, _⟩ | ⟨_, _, hw⟩ | ⟨_, hw⟩ | ⟨_, _, _, _, hw⟩ | ⟨_, _, _, _, hw⟩ |
    ⟨_, _, hw⟩ | ⟨_, _, _, _, hw⟩
  case inl => exact absurd ⟨hc, hv⟩ hreset
  case inr.inr.inr.inr.inr.inr =>
    rw [hw]
    exact s.engine.storeReg_maskBit r v f i h
  all_goals
    rw [hw]
    cases f <;> exact h

/-- Settles O24: in IDLE the write stores in the word its offset selects. -/
theorem trackedFieldWrite : Obligations.TrackedFieldWrite := by
  refine ⟨fun s f w v hp hf hw => ?_, fun s t off v hreset ht f i h => ?_⟩
  · obtain ⟨hr, ha⟩ := regAt_wordOff f hw
    exact ⟨_, exec_wr_store ha hr nofun nofun nofun v hp, fun j hj => s.engine.storeReg_bytesOf hf w v hj,
      fun i hi => s.engine.storeReg_maskBit_same hf w v hi, fun g hg => s.engine.storeReg_frame f g w v hg,
      s.engine.storeReg_data_scalars f w v, rfl⟩
  · have ha := aligned_of_exec_wr ht
    cases (exec_wr ha rfl v s).symm.trans ht
    refine State.writeReg_maskBit (fun ⟨hc, hv⟩ => ?_) h
    rw [regAt_eq_ctrl ha] at hc
    simp [isSoftReset, hc, hv] at hreset

end Sys2Proof.Machine
end

section
/-!
# Which bits of a register a read shows and a write uses (20_memory.md R66, R72, R74; 70_reset_and_hazards.md R270)
-/
namespace Sys2Proof.Machine

/-! ### Offsets and bits -/

/-- A decidable fact about every aligned offset is checked at the 64 words of the window. -/
theorem forall_aligned {P : BitVec 8 → Prop} (h : ∀ k < 64, P (BitVec.ofNat 8 (4 * k))) {off : BitVec 8}
    (ha : off.toNat % 4 = 0) : P off := by
  have hoff : 4 * (off.toNat / 4) = off.toNat := by omega
  simpa [hoff] using h (off.toNat / 4) (by omega)

theorem full_getLsbD {i : Nat} (hi : i < 32) : (0xFFFFFFFF : Word).getLsbD i = true := by
  have all : ∀ i < 32, (0xFFFFFFFF : Word).getLsbD i = true := by decide
  exact all i hi

theorem and_full (v : Word) : v &&& 0xFFFFFFFF = v := BitVec.and_allOnes

/-- NDIG is bits 0 to 4 of BCD_CTRL and FILL bits 8 to 11 (R42). -/
theorem bcdCtrl_mask {i : Nat} (hi : i < 32) :
    (0xF1F : Word).getLsbD i = (decide (i < 5) || decide (8 ≤ i ∧ i < 12)) := by
  have all : ∀ i < 32, (0xF1F : Word).getLsbD i = (decide (i < 5) || decide (8 ≤ i ∧ i < 12)) := by decide
  exact all i hi

/-! ### Read after write -/

/-- The registers whose value a host writes and reads: the parameter registers, and the words of the tracked fields but
K and OPC. -/
def readsBack : Reg → Bool
  | .mcc | .mnc | .resLen | .variant | .bcdCtrl => true
  | .data f w => fieldTracked f && f != .k && f != .opc && decide (w < fieldWords f)
  | .id | .version | .ctrl | .cmd | .status | .loaded | .reserved => false

theorem ne_of_readsBack {r : Reg} (h : readsBack r = true) : r ≠ .ctrl ∧ r ≠ .status ∧ r ≠ .cmd := by
  refine ⟨?_, ?_, ?_⟩ <;> rintro rfl <;> cases h

/-- The low `n` bits of a word, read back in a word, are the word under the mask of these bits. -/
theorem setWidth_extractLsb'_low (v : Word) {n : Nat} (hn : n ≤ 32) :
    (v.extractLsb' 0 n).setWidth 32 = v &&& BitVec.ofNat 32 (2 ^ n - 1) := by
  apply BitVec.eq_of_toNat_eq
  have hpow : 2 ^ n ≤ 2 ^ 32 := Nat.pow_le_pow_right (by decide) hn
  have hpos : 0 < 2 ^ n := Nat.two_pow_pos n
  have hlt : v.toNat % 2 ^ n < 2 ^ 32 := Nat.lt_of_lt_of_le (Nat.mod_lt _ hpos) hpow
  rw [BitVec.toNat_and, BitVec.toNat_ofNat, Nat.mod_eq_of_lt (a := 2 ^ n - 1) (by omega),
    Nat.and_two_pow_sub_one_eq_mod]
  simpa using hlt

theorem bcdCtrl_readBack (v : Word) :
    (0#20 ++ v.extractLsb' 8 4 ++ 0#3 ++ v.extractLsb' 0 5 : Word) = v &&& 0xF1F := by
  apply BitVec.eq_of_getLsbD_eq
  intro i hi
  simp only [BitVec.getLsbD_and, bcdCtrl_mask hi, BitVec.getLsbD_append, BitVec.getLsbD_extractLsb',
    BitVec.getLsbD_zero]
  grind

/-- A register reads what was stored in it, in its own bits. -/
theorem Engine.readReg_storeReg (e : Engine) {r : Reg} (h : readsBack r = true) (v : Word) :
    (e.storeReg r v).readReg r = v &&& readableBits r := by
  cases r with
  | mcc | mnc => exact setWidth_extractLsb'_low v (n := 16) (by decide)
  | resLen => exact setWidth_extractLsb'_low v (n := 5) (by decide)
  | variant => exact setWidth_extractLsb'_low v (n := 8) (by decide)
  | bcdCtrl => exact bcdCtrl_readBack v
  | data f w =>
    cases f
    case k | opc | resstar | sqn | maca => cases h
    case bcdPacked =>
      have hw : w < 2 := of_decide_eq_true h
      exact (wordOf_setWord_same _ v (by omega)).trans (and_full v).symm
    all_goals
      have hw : w < 4 := of_decide_eq_true h
      exact (wordOf_setWord_same _ v (by omega)).trans (and_full v).symm
  | id | version | ctrl | cmd | status | loaded | reserved => cases h

theorem Engine.storeReg_phase (e : Engine) (r : Reg) (v : Word) : (e.storeReg r v).phase = e.phase := by
  cases r with
  | data f w => cases f <;> simp only [Engine.storeReg]
  | _ => rfl

theorem regAt_readsBack {off : BitVec 8} (ha : off.toNat % 4 = 0)
    (h : 0x50 ≤ off.toNat ∧ off.toNat < 0xA0 ∨ 0xC0 ≤ off.toNat ∧ off.toNat < 0xD8) :
    readsBack (regAt off) = true ∧ readableBits (regAt off) = 0xFFFFFFFF := by
  revert h
  apply forall_aligned _ ha
  decide

/-- In IDLE a register that reads back records the value written, in its own bits. -/
theorem exec_wr_rd {off : BitVec 8} (ha : off.toNat % 4 = 0) (hb : readsBack (regAt off) = true) {s : State}
    (hp : s.engine.phase = .idle) (v : Word) :
    ∃ t u, exec (.wr off v) s = .next t ∧ exec (.rd off) t = .next u ∧
      u = { t with pc := t.pc + 1, results := ⟨t.pc, off, v &&& readableBits (regAt off)⟩ :: t.results } := by
  obtain ⟨hc, hs, hcmd⟩ := ne_of_readsBack hb
  refine ⟨_, _, exec_wr_store ha rfl hc hs hcmd v hp, exec_rd_idle ha rfl ?_, ?_⟩
  · exact (s.engine.storeReg_phase _ v).trans hp
  · rw [Engine.readReg_storeReg _ hb]

/-- Settles O26: the masks listed are the registers' own bits. -/
theorem readAfterWriteReturnsValue : Obligations.ReadAfterWriteReturnsValue := by
  intro s off v mask hp h
  have own : off.toNat % 4 = 0 ∧ readsBack (regAt off) = true ∧ readableBits (regAt off) = mask := by
    rcases h with ⟨rfl, rfl⟩ | ⟨rfl, rfl⟩ | ⟨rfl, rfl⟩ | ⟨rfl, rfl⟩ | ⟨rfl, rfl⟩ | ⟨hrange, ha, rfl⟩
    case inr.inr.inr.inr.inr => exact ⟨ha, regAt_readsBack ha hrange⟩
    all_goals exact ⟨rfl, rfl, rfl⟩
  obtain ⟨ha, hb, rfl⟩ := own
  exact exec_wr_rd ha hb hp v

/-! ### Reserved bits of a read -/

/-- The bits R270 leaves unspecified are no reserved ones (log entry 20). -/
theorem unspecifiedBits_getLsbD_reserved (c : Instr) {r : Reg} {i : Nat} (hi : i < 32)
    (h : (readableBits r).getLsbD i = false) : (unspecifiedBits c r).getLsbD i = false := by
  have inWriteSet : (if mayWrite c r then readableBits r else 0).getLsbD i = false := by
    split
    · exact h
    · exact BitVec.getLsbD_zero
  have status : ∀ i < 32, (0xF7F : Word).getLsbD i = false → (0x70 : Word).getLsbD i = false := by decide
  cases r with
  | loaded => exact h
  | status => exact status i hi h
  | _ => exact inWriteSet

/-- Lanes past the end of SQN, those from byte 6 on, are 0 (R66). -/
theorem wordOf_sqn_getLsbD (b : ByteStr 6) {w i : Nat} (hw : w ≠ 0) (hi : i < 16) :
    (wordOf b w).getLsbD i = false := by
  have past : byteAt b (4 * w + 2) = 0 ∧ byteAt b (4 * w + 3) = 0 :=
    ⟨byteAt_of_ge b (by omega), byteAt_of_ge b (by omega)⟩
  simp only [wordOf, past, BitVec.getLsbD_append]
  grind

/-- A register's own value has no reserved bit set (R66, R72). -/
theorem Engine.readReg_getLsbD_reserved (e : Engine) {r : Reg} {i : Nat} (hi : i < 32)
    (h : (readableBits r).getLsbD i = false) : (e.readReg r).getLsbD i = false := by
  have full : (0xFFFFFFFF : Word).getLsbD i ≠ false := by
    rw [full_getLsbD hi]
    exact Bool.noConfusion
  have above {n : Nat} (x : BitVec n) (hn : n ≤ i) : (x.setWidth 32).getLsbD i = false := by
    simp [BitVec.getLsbD_of_ge x i hn]
  cases r with
  | id | version | cmd => exact absurd h full
  | reserved => exact BitVec.getLsbD_zero
  | ctrl =>
    have own : ∀ i < 32, (0x3 : Word).getLsbD i = false → 1 ≤ i := by decide
    exact above _ (own i hi h)
  | mcc | mnc =>
    have own : ∀ i < 32, (0xFFFF : Word).getLsbD i = false → 16 ≤ i := by decide
    exact above _ (own i hi h)
  | resLen =>
    have own : ∀ i < 32, (0x1F : Word).getLsbD i = false → 5 ≤ i := by decide
    exact above _ (own i hi h)
  | variant =>
    have own : ∀ i < 32, (0xFF : Word).getLsbD i = false → 8 ≤ i := by decide
    exact above _ (own i hi h)
  | bcdCtrl =>
    have h : (0xF1F : Word).getLsbD i = false := h
    rw [bcdCtrl_mask hi] at h
    simp only [Engine.readReg, BitVec.getLsbD_append, BitVec.getLsbD_zero]
    grind
  | status =>
    have own : ∀ i < 32, (0xF7F : Word).getLsbD i = false → i = 7 ∨ 12 ≤ i := by decide
    rcases own i hi h with rfl | hge
    · obtain ⟨-, -, -, -, -, -, -, hReserved⟩ := statusWord_flags e
      exact hReserved
    · have bit := statusWord_getLsbD_add_eight e (i - 8)
      rwa [Nat.sub_add_cancel (by omega), decide_eq_false (by omega), Bool.false_and] at bit
  | loaded =>
    have own : ∀ i < 32, (0x1FF : Word).getLsbD i = false → 9 ≤ i := by decide
    have bit := congrArg (BitVec.getLsbD · (i - 9)) (loadedWord_reserved e)
    have hge := own i hi h
    have hi' : i - 9 < 23 := by omega
    have hsum : 9 + (i - 9) = i := by omega
    simpa [Engine.readReg, hsum, hi'] using bit
  | data f w =>
    cases f
    case sqn =>
      by_cases hw : w = 0
      · subst hw
        exact absurd h full
      · have own : ∀ i < 32, (0xFFFF0000 : Word).getLsbD i = false → i < 16 := by decide
        exact wordOf_sqn_getLsbD e.sqn hw (own i hi (by simpa [readableBits, hw] using h))
    all_goals exact absurd h full

/-- A read shows no 1 in a reserved bit, in any phase. -/
theorem State.readReg_reserved (s : State) (r : Reg) : (s.readReg r).1 &&& ~~~readableBits r = 0 := by
  apply BitVec.eq_of_getLsbD_eq
  intro i hi
  have hzero (h : (readableBits r).getLsbD i = false) : (s.readReg r).1.getLsbD i = false := by
    rw [State.readReg_getLsbD fun p _ _ => unspecifiedBits_getLsbD_reserved (decodeCmd p) hi h]
    exact s.engine.readReg_getLsbD_reserved hi h
  cases h : (readableBits r).getLsbD i with
  | true => simp [h]
  | false => simp [hzero h]

/-! ### Reserved bits of a write -/

/-- A mask that holds a whole field does not change the field. -/
theorem extractLsb'_and_mask {m : Word} {i n : Nat} (hm : m.extractLsb' i n = BitVec.allOnes n) (v : Word) :
    (v &&& m).extractLsb' i n = v.extractLsb' i n := by
  rw [BitVec.extractLsb'_and, hm, BitVec.and_allOnes]

theorem getElem_and_mask {m : Word} {i : Nat} (hi : i < 32) (hm : m[i] = true) (v : Word) : (v &&& m)[i] = v[i] := by
  rw [BitVec.getElem_and, hm, Bool.and_true]

/-- A register stores its own bits only. -/
theorem Engine.storeReg_readable (e : Engine) (r : Reg) (v : Word) :
    e.storeReg r (v &&& readableBits r) = e.storeReg r v := by
  cases r with
  | mcc | mnc | resLen | variant =>
    simp only [Engine.storeReg, readableBits]
    rw [extractLsb'_and_mask (by decide)]
  | bcdCtrl =>
    simp only [Engine.storeReg, readableBits]
    rw [extractLsb'_and_mask (by decide), extractLsb'_and_mask (by decide)]
  | data f w =>
    cases f
    case resstar | sqn | maca => rfl
    all_goals exact congrArg (e.storeReg _) (and_full v)
  | id | version | ctrl | cmd | status | loaded | reserved => rfl

/-- A write of a register other than CMD uses the register's own bits only. -/
theorem State.writeReg_readable (s : State) {r : Reg} (hcmd : r ≠ .cmd) (v : Word) :
    s.writeReg r (v &&& readableBits r) = s.writeReg r v := by
  by_cases hc : r = .ctrl
  · subst hc
    have bit0 : (v &&& 0x3)[0] = v[0] := getElem_and_mask (by decide) rfl v
    have bit1 : (v &&& 0x3)[1] = v[1] := getElem_and_mask (by decide) rfl v
    change s.ctrlWrite (v &&& 0x3) = s.ctrlWrite v
    simp only [State.ctrlWrite, bit0, bit1]
  by_cases hs : r = .status
  · subst hs
    have bit1 : (v &&& 0xF7F)[1] = v[1] := getElem_and_mask (by decide) rfl v
    have bit2 : (v &&& 0xF7F)[2] = v[2] := getElem_and_mask (by decide) rfl v
    have bit3 : (v &&& 0xF7F)[3] = v[3] := getElem_and_mask (by decide) rfl v
    change { s with engine := s.engine.statusWrite (v &&& 0xF7F) } = { s with engine := s.engine.statusWrite v }
    simp only [Engine.statusWrite, bit1, bit2, bit3]
  cases hp : s.engine.phase with
  | idle =>
    rw [State.writeReg_of_idle hc hs hp, State.writeReg_of_idle hc hs hp, if_neg hcmd, if_neg hcmd,
      Engine.storeReg_readable]
  | busy p n => rw [State.writeReg_of_busy hc hs hp, State.writeReg_of_busy hc hs hp]

/-- The read-only registers and reserved offsets take no write. -/
theorem regAt_readOnly {off : BitVec 8} (ha : off.toNat % 4 = 0)
    (h : off = 0x00 ∨ off = 0x04 ∨ off = 0x14 ∨ off = 0x2C ∨ 0xA0 ≤ off.toNat ∧ off.toNat < 0xC0 ∨
      0xD8 ≤ off.toNat) :
    regAt off ≠ .ctrl ∧ regAt off ≠ .status ∧ regWritable (regAt off) = false := by
  revert h
  apply forall_aligned _ ha
  decide

theorem regAt_eq_reserved {off : BitVec 8} (ha : off.toNat % 4 = 0) (h : off = 0x2C ∨ 0xD8 ≤ off.toNat) :
    regAt off = .reserved := by
  revert h
  apply forall_aligned _ ha
  decide

/-- Settles O27: no command makes a reserved offset unspecified, and a read-only or reserved one is not writable. -/
theorem reservedSpaceReadsZeroIgnoresWrites : Obligations.ReservedSpaceReadsZeroIgnoresWrites := by
  refine ⟨fun s off v ha h => ?_, fun s off ha h => ?_, fun s t off x ht hx => ?_, fun s off v hcmd => ?_,
    fun w hw => if_pos hw⟩
  · obtain ⟨hc, hs, hw⟩ := regAt_readOnly ha h
    exact exec_wr_ignored ha rfl hc hs hw v s
  · exact exec_rd_quiet ha (regAt_eq_reserved ha h) fun _ _ _ => rfl
  · cases (exec_rd (aligned_of_exec_rd ht) rfl s).symm.trans ht
    cases hx
    exact s.readReg_reserved (regAt off)
  · by_cases ha : off.toNat % 4 = 0
    · rw [exec_wr ha rfl, exec_wr ha rfl, State.writeReg_readable s fun hr => hcmd ((regAt_eq_cmd ha).mp hr)]
    · rw [exec_wr_misaligned ha, exec_wr_misaligned ha]

end Sys2Proof.Machine
end

section
/-!
# What a host transaction leaves as it was (20_memory.md R68, R71, R74, R75; 70_reset_and_hazards.md R271, R272)
-/
namespace Sys2Proof.Machine

/-- A register write changes the engine, and an accept the draw counter too; nothing of the host. -/
theorem State.writeReg_host (s : State) (r : Reg) (v : Word) :
    ∃ e d, s.writeReg r v = { s with engine := e, draws := d } ∧ (r ≠ .cmd → d = s.draws) := by
  rcases s.writeReg_cases r v with ⟨_, _, hw⟩ | ⟨_, _, hw⟩ | ⟨_, hw⟩ | ⟨_, _, _, _, hw⟩ | ⟨_, _, _, _, hw⟩ |
    ⟨hcmd, _, hw⟩ | ⟨_, _, _, _, hw⟩
  case inr.inr.inr.inr.inr.inl => exact ⟨_, _, hw, fun h => absurd hcmd h⟩
  all_goals exact ⟨_, _, hw, fun _ => rfl⟩

/-- Settles O28: the write answers, and changes nothing of the host but the counter. -/
theorem alignedWriteCompletes : Obligations.AlignedWriteCompletes := by
  intro s off v ha
  obtain ⟨e, d, hw, hd⟩ := s.writeReg_host (regAt off) v
  refine ⟨{ s with engine := e, draws := d, pc := s.pc + 1 }, ?_, rfl, rfl, rfl, rfl,
    fun hcmd => hd fun hr => hcmd ((regAt_eq_cmd ha).mp hr)⟩
  rw [exec_wr ha rfl, hw]
  rfl

/-! ### Reads and repeated writes -/

/-- An RD or POLL that answers leaves the engine as it was (R71). -/
theorem exec_rd_or_poll_engine {i : Instr} (hi : (∃ off, i = .rd off) ∨ ∃ off m, i = .poll off m) {s t : State}
    (h : exec i s = .next t) : t.engine = s.engine := by
  have tx : i.isCmdWord = false := by rcases hi with ⟨_, rfl⟩ | ⟨_, _, rfl⟩ <;> rfl
  obtain ⟨-, -, -, ⟨-, he⟩ | ⟨_, _, rfl, -⟩⟩ := exec_tx_cases tx h
  · exact he
  · rcases hi with ⟨_, h'⟩ | ⟨_, _, h'⟩ <;> cases h'

/-- A WR that answers is a register write and the advance. -/
theorem exec_wr_engine {off : BitVec 8} {v : Word} {s t : State} (h : exec (.wr off v) s = .next t) :
    t.engine = (s.writeReg (regAt off) v).engine := by
  cases (exec_wr (aligned_of_exec_wr h) rfl v s).symm.trans h
  rfl

theorem setWord_setWord {n : Nat} (b : ByteStr n) (w : Nat) (v : Word) :
    setWord (setWord b w v) w v = setWord b w v := by
  apply ByteStr.ext_byteAt
  intro j hj
  simp only [byteAt_setWord]
  split <;> rfl

theorem Tracked.hostWrite_hostWrite {n m : Nat} (f : Tracked n m) (w : Nat) (v : Word) :
    (f.hostWrite w v).hostWrite w v = f.hostWrite w v := by
  simp only [Tracked.hostWrite, setWord_setWord, BitVec.or_assoc, BitVec.or_self]

theorem Engine.storeReg_storeReg (e : Engine) (r : Reg) (v : Word) :
    (e.storeReg r v).storeReg r v = e.storeReg r v := by
  cases r with
  | data f w => cases f <;> simp only [Engine.storeReg, Tracked.hostWrite_hostWrite]
  | _ => rfl

theorem Engine.statusWrite_statusWrite (e : Engine) (v : Word) :
    (e.statusWrite v).statusWrite v = e.statusWrite v := by
  cases h : v[2] <;> simp [Engine.statusWrite, h]

/-- Writing a register other than CMD a second time changes nothing more of the engine (R71). -/
theorem State.writeReg_repeated {s t : State} {r : Reg} {v : Word} (hcmd : r ≠ .cmd)
    (ht : t.engine = (s.writeReg r v).engine) : (t.writeReg r v).engine = t.engine := by
  by_cases hc : r = .ctrl
  · subst hc
    have hw (x : State) : (x.writeReg .ctrl v).engine =
        if v[1] then Engine.reset else { x.engine with irqEn := v[0] } := apply_ite State.engine _ _ _
    rw [hw] at ht ⊢
    split at ht
    all_goals
      rename_i hv
      rw [ht]
    · exact if_pos hv
    · exact if_neg hv
  by_cases hs : r = .status
  · subst hs
    rw [ht]
    change t.engine.statusWrite v = _
    rw [ht]
    exact s.engine.statusWrite_statusWrite v
  cases hp : s.engine.phase with
  | idle =>
    rw [State.writeReg_of_idle hc hs hp, if_neg hcmd] at ht
    have hp' : t.engine.phase = .idle := by rw [ht]; exact (s.engine.storeReg_phase r v).trans hp
    rw [State.writeReg_of_idle hc hs hp', if_neg hcmd, ht]
    exact s.engine.storeReg_storeReg r v
  | busy p n =>
    rw [State.writeReg_of_busy hc hs hp] at ht
    split at ht
    all_goals
      rename_i hw
      have hp' : t.engine.phase = .busy p n := by rw [ht]; exact hp
      rw [State.writeReg_of_busy hc hs hp']
    · rw [if_pos hw, ht]
    · rw [if_neg hw]

/-- A CMD write in IDLE is accepted (R71, R200). -/
theorem exec_wr_cmd_idle {s t : State} {v : Word} (hp : s.engine.phase = .idle)
    (h : exec (.wr 0x0C v) s = .next t) : ∃ n, t.engine.phase = .busy v n := by
  have he : t.engine = (s.writeReg .cmd v).engine := exec_wr_engine h
  rw [State.writeReg_of_idle (r := .cmd) nofun nofun hp, if_pos rfl] at he
  exact ⟨_, by rw [he]; rfl⟩

/-- A CMD write while BUSY is dropped and sets WERR (R71, R271). -/
theorem exec_wr_cmd_busy {s t : State} {p v : Word} {n : Nat} (hp : s.engine.phase = .busy p n)
    (h : exec (.wr 0x0C v) s = .next t) : t.engine = { s.engine with werr := true } := by
  have he : t.engine = (s.writeReg .cmd v).engine := exec_wr_engine h
  rw [State.writeReg_of_busy (r := .cmd) nofun nofun hp] at he
  exact he

/-- Settles O21: after the first CMD write the engine is BUSY, so a second one is dropped. -/
theorem readsAndRepeatedWritesIdempotent : Obligations.ReadsAndRepeatedWritesIdempotent := by
  refine ⟨fun s t off m h => ?_, fun s t u off v hcmd ht hu => ?_, fun s t v ht => ?_, fun s t u v v' ht hu => ?_⟩
  · rcases h with h | h
    · exact exec_rd_or_poll_engine (.inl ⟨off, rfl⟩) h
    · exact exec_rd_or_poll_engine (.inr ⟨off, m, rfl⟩) h
  · have hr : regAt off ≠ .cmd := fun hr => hcmd ((regAt_eq_cmd (aligned_of_exec_wr ht)).mp hr)
    rw [exec_wr_engine hu]
    exact State.writeReg_repeated hr (exec_wr_engine ht)
  · cases hp : s.engine.phase with
    | idle => exact .inl ⟨rfl, exec_wr_cmd_idle hp ht⟩
    | busy p n => exact .inr ⟨by simp [Engine.isBusy, hp], exec_wr_cmd_busy hp ht⟩
  · have busy : ∃ p n, t.engine.phase = .busy p n := by
      cases hp : s.engine.phase with
      | idle => exact ⟨v, exec_wr_cmd_idle hp ht⟩
      | busy p n => exact ⟨p, n, by rw [exec_wr_cmd_busy hp ht]; exact hp⟩
    obtain ⟨p, n, hp⟩ := busy
    exact exec_wr_cmd_busy hp hu

/-! ### While a command is pending -/

/-- A register write while BUSY is a soft reset, or changes at most IRQ_EN and the flags DONE, ERR, ERRCODE and WERR
(R271, R272). -/
theorem State.writeReg_engine_of_busy {s : State} {p : Word} {n : Nat} (hp : s.engine.phase = .busy p n) (r : Reg)
    (v : Word) {e : Engine} (he : e = (s.writeReg r v).engine) :
    (r = .ctrl ∧ v[1] = true ∧ e = Engine.reset) ∨
    e = { s.engine with irqEn := e.irqEn, done := e.done, err := e.err, errcode := e.errcode, werr := e.werr } := by
  rcases s.writeReg_cases r v with ⟨hc, hv, hw⟩ | ⟨_, _, hw⟩ | ⟨_, hw⟩ | ⟨_, _, _, _, hw⟩ | ⟨_, _, _, _, hw⟩ |
    ⟨_, hidle, _⟩ | ⟨_, _, _, hidle, _⟩
  case inl => exact .inl ⟨hc, hv, by rw [he, hw]; rfl⟩
  case inr.inr.inr.inr.inr.inl | inr.inr.inr.inr.inr.inr =>
    rw [hp] at hidle
    cases hidle
  all_goals
    obtain rfl := he.trans (congrArg State.engine hw)
    exact .inr rfl

/-- Settles O57: of the transactions only a write changes the engine. -/
theorem busyInputsStayAsAccepted : Obligations.BusyInputsStayAsAccepted := by
  intro i s t p n hi hp h
  obtain ⟨-, -, -, ⟨-, he⟩ | ⟨off, v, rfl, ha, -, he⟩⟩ := exec_tx_cases hi h
  · exact .inr (by rw [he])
  · rcases State.writeReg_engine_of_busy hp (regAt off) v he with ⟨hc, hv, hreset⟩ | hflags
    · rw [regAt_eq_ctrl ha] at hc
      exact .inl ⟨by simp [isSoftReset, hc, hv], hreset⟩
    · exact .inr hflags

end Sys2Proof.Machine
end

section
/-!
# WAIT: polling STATUS until the completion (20_memory.md R76; 30_encoding.md R98; 70_reset_and_hazards.md R274, R275)

What a command does depends on the engine but not on the phase it is found in, so the slots that pass, and the host's
records of the polls, do not change the engine the completion leaves.
-/
namespace Sys2Proof.Machine

/-! ### Commands and the phase -/

/-- The engine with the given phase. -/
def Engine.withPhase (e : Engine) (ph : Phase) : Engine := { e with phase := ph }

/-- A command's result with the given phase. -/
def CmdResult.withPhase (r : CmdResult) (ph : Phase) : CmdResult := ⟨r.engine.withPhase ph, r.code⟩

section
variable (e : Engine) (ph : Phase)

theorem kdfResstarRun_withPhase : kdfResstarRun (e.withPhase ph) = (kdfResstarRun e).withPhase ph := by
  simp only [kdfResstarRun, apply_ite (CmdResult.withPhase · ph)]
  rfl

theorem akaCore_withPhase (vectors : VectorsPort) (f1 : F1Port) (auth : Bool) :
    akaCore vectors f1 auth (e.withPhase ph) = (akaCore vectors f1 auth e).withPhase ph := by
  simp only [akaCore, apply_ite (CmdResult.withPhase · ph)]
  rfl

theorem bcdEncRun_withPhase : bcdEncRun (e.withPhase ph) = (bcdEncRun e).withPhase ph := by
  simp only [bcdEncRun, apply_ite (CmdResult.withPhase · ph)]
  rfl

theorem bcdDecRun_withPhase : bcdDecRun (e.withPhase ph) = (bcdDecRun e).withPhase ph := by
  simp only [bcdDecRun, apply_ite (CmdResult.withPhase · ph)]
  rfl

end

/-- The report of a completion ends the phase, whatever it was (R201). -/
theorem complete_withPhase (r : CmdResult) (ph : Phase) (s : State) : complete (r.withPhase ph) s = complete r s := rfl

/-- A command answers the same engine from two systems whose engines differ in the phase only. -/
theorem exec_command_withPhase {i : Instr} (hi : i.isCmdWord = true) {s t u : State} {ph : Phase}
    (ht : t.engine = s.engine.withPhase ph) (hu : exec i s = .next u) :
    exec i t = .next { t with engine := u.engine } := by
  have same {run : Engine → CmdResult} (hrun : run (s.engine.withPhase ph) = (run s.engine).withPhase ph)
      (hs : complete (run s.engine) s = .next u) :
      complete (run t.engine) t = .next { t with engine := u.engine } := by
    rw [ht, hrun, complete_withPhase, complete_next hs]
    rfl
  cases i with
  | kdfResstar => exact same (kdfResstarRun_withPhase _ ph) hu
  | akaVerify | akaAuth => exact same (akaCore_withPhase _ ph _ _ _) hu
  | bcdEnc => exact same (bcdEncRun_withPhase _ ph) hu
  | bcdDec => exact same (bcdDecRun_withPhase _ ph) hu
  | zeroize => exact same (run := zeroizeRun) rfl hu
  | illegal w => exact same (run := illegalRun) rfl hu
  | rd | wr | poll => cases hi

/-! ### One step -/

/-- BUSY is bit 0 of STATUS, which R270 leaves specified: a poll of it passes exactly in IDLE. -/
theorem State.readReg_status_and_one (s : State) : (s.readReg .status).1 &&& 1 = 0 ↔ s.engine.isBusy = false := by
  have specified : (0x70 : Word).getLsbD 0 = false := by decide
  have bit : (s.readReg .status).1.getLsbD 0 = s.engine.isBusy :=
    (State.readReg_getLsbD (r := .status) (i := 0) fun _ _ _ => specified).trans (statusWord_flags s.engine).1
  rw [← bit, show (s.readReg .status).1 &&& 1 = _ from BitVec.and_one_eq_setWidth_ofBool_getLsbD]
  cases (s.readReg .status).1.getLsbD 0 <;> decide

/-- The next transaction is `POLL STATUS, 0x1`, and `rst` stays deasserted. -/
structure State.Waiting (s : State) : Prop where
  rst : s.rst = []
  poll : s.program[s.pc]? = some 0x21000000001

section
variable {s : State} (h : s.Waiting)
include h

theorem State.Waiting.rst_head : s.rst.head? ≠ some true := by simp [h.rst]

theorem State.Waiting.rst_tail : { s with rst := s.rst.tail } = s := by
  have tail : s.rst.tail = s.rst := by simp [h.rst]
  rw [tail]

/-- While BUSY with no slot left the step is the completion (R201). -/
theorem step_due {p : Word} (hp : s.engine.phase = .busy p 0) : step s = exec (decodeCmd p) s := by
  simp only [step, nextMove_live h.rst_head, h.rst_tail, liveMove, hp]

/-- Otherwise the step is the poll, a slot of the BUSY window having passed. -/
theorem step_poll (hp : ∀ p, s.engine.phase ≠ .busy p 0) : step s = exec (.poll 0x10 1) s.passSlot := by
  have decoded : decodeTx 0x21000000001 = .ok (.poll 0x10 1) := by decide
  rw [step_of_fetch h.rst_head h.poll decoded hp, h.rst_tail]

/-- While BUSY with slots left a poll uses one up and is repeated. -/
theorem step_poll_busy {p : Word} {n : Nat} (hp : s.engine.phase = .busy p (n + 1)) :
    ∃ rs d, step s = .next { s with engine := s.engine.withPhase (.busy p n), results := rs, draws := d } := by
  have slot : s.passSlot = { s with engine := s.engine.withPhase (.busy p n) } := by
    simp only [State.passSlot, hp, Engine.withPhase, Nat.add_sub_cancel]
  have repeated : ¬ (s.passSlot.readReg .status).1 &&& 1 = 0 := by
    rw [State.readReg_status_and_one, slot]
    exact Bool.noConfusion
  rw [step_poll h (by simp [hp]), exec_poll (off := 0x10) rfl regAt_status, if_neg repeated, slot]
  exact ⟨_, _, rfl⟩

/-- In IDLE a poll passes. -/
theorem step_poll_idle (hp : s.engine.phase = .idle) :
    ∃ rs d, step s = .next { s with pc := s.pc + 1, results := rs, draws := d } := by
  have slot : s.passSlot = s := by simp only [State.passSlot, hp]
  have passes : (s.readReg .status).1 &&& 1 = 0 := s.readReg_status_and_one.mpr (by simp [Engine.isBusy, hp])
  rw [step_poll h (by simp [hp]), slot, exec_poll (off := 0x10) rfl regAt_status, if_pos passes]
  exact ⟨_, _, rfl⟩

end

/-! ### The run -/

theorem run_succ_of_step (M : Host.Core) {s t : M.State} (h : M.step s = .next t) (k : Nat) :
    M.run (k + 1) s = M.run k t := by
  simp only [Host.Core.run, h]

/-- The last of `k + 1` steps is a step from where the first `k` lead. -/
theorem run_succ_of_run (M : Host.Core) {k : Nat} {s t u : M.State} (ht : M.run k s = .next t)
    (hu : M.step t = .next u) : M.run (k + 1) s = .next u := by
  induction k generalizing s with
  | zero =>
    cases ht
    exact run_succ_of_step M hu 0
  | succ k ih =>
    cases hs : M.step s with
    | next s' =>
      rw [run_succ_of_step M hs] at ht ⊢
      exact ih ht
    | fault | refused =>
      simp only [Host.Core.run, hs] at ht
      cases ht

/-- The polls use the slots up, and the step after them is the completion. -/
theorem run_to_completion {n : Nat} {s u : State} {p : Word} (hw : s.Waiting) (hp : s.engine.phase = .busy p n)
    (hu : exec (decodeCmd p) s = .next u) :
    ∃ rs d, Sys2Proof.core.run (n + 1) s = .next { s with engine := u.engine, results := rs, draws := d } := by
  have hi := decodeCmd_isCmdWord p
  induction n generalizing s u with
  | zero =>
    have hstep : Sys2Proof.core.step s = .next { s with engine := u.engine } :=
      (step_due hw hp).trans (exec_command_withPhase (ph := s.engine.phase) hi rfl hu)
    exact ⟨s.results, s.draws, run_succ_of_run Sys2Proof.core rfl hstep⟩
  | succ n ih =>
    obtain ⟨rs, d, hstep⟩ := step_poll_busy hw hp
    obtain ⟨rs', d', hrun⟩ := ih (s := { s with engine := s.engine.withPhase (.busy p n), results := rs, draws := d })
      ⟨hw.rst, hw.poll⟩ rfl (exec_command_withPhase hi rfl hu)
    exact ⟨rs', d', (run_succ_of_step Sys2Proof.core hstep (n + 1)).trans hrun⟩

/-- Settles O59: the completion leaves the engine IDLE, so the poll after it passes. -/
theorem waitEndsWithTheCompletion : Obligations.WaitEndsWithTheCompletion := by
  intro s u p n hrst hp hpoll hu
  have hidle : u.engine.phase = .idle := by
    obtain ⟨r, hr⟩ := exec_command (decodeCmd_isCmdWord p) s
    cases hr.symm.trans hu
    rfl
  obtain ⟨rs, d, hrun⟩ := run_to_completion ⟨hrst, hpoll⟩ hp hu
  obtain ⟨rs', d', hstep⟩ := step_poll_idle
    (s := { s with engine := u.engine, results := rs, draws := d }) ⟨hrst, hpoll⟩ hidle
  exact ⟨⟨_, hrun, rfl, rfl⟩, _, run_succ_of_run Sys2Proof.core hrun hstep, rfl, rfl, rfl⟩

end Sys2Proof.Machine
end

section
/-!
# Decoding and encoding of CMD32 and HOSTTX words (30_encoding.md R90 to R96)
-/
namespace Sys2Proof

/-! ### HOSTTX: what each KIND stands for (R96) -/

section
variable {w : TxWord}

theorem decodeTx_rd (hk : txKind w = 0b00) (hd : txData w = 0) : decodeTx w = .ok (.rd (txOff w)) := by
  simp [decodeTx, hk, hd]

theorem decodeTx_rd_dataNonzero (hk : txKind w = 0b00) (hd : txData w ≠ 0) :
    decodeTx w = .error .rdDataNonzero := by
  simpa [decodeTx, hk] using hd

theorem decodeTx_wr (hk : txKind w = 0b01) : decodeTx w = .ok (.wr (txOff w) (txData w)) := by
  simp [decodeTx, hk]

theorem decodeTx_poll (hk : txKind w = 0b10) : decodeTx w = .ok (.poll (txOff w) (txData w)) := by
  simp [decodeTx, hk]

theorem decodeTx_kindReserved (hk : txKind w = 0b11) : decodeTx w = .error .kindReserved := by
  simp [decodeTx, hk]

/-- The three kinds of transaction a word can stand for, each with the fields that make it so. -/
theorem decodeTx_ok_cases {i : Instr} (h : decodeTx w = .ok i) :
    (txKind w = 0b00 ∧ txData w = 0 ∧ i = .rd (txOff w)) ∨
    (txKind w = 0b01 ∧ i = .wr (txOff w) (txData w)) ∨
    (txKind w = 0b10 ∧ i = .poll (txOff w) (txData w)) := by
  have kinds : ∀ k : BitVec 2, k = 0b00 ∨ k = 0b01 ∨ k = 0b10 ∨ k = 0b11 := by decide
  rcases kinds (txKind w) with hk | hk | hk | hk
  · by_cases hd : txData w = 0
    · cases (decodeTx_rd hk hd).symm.trans h
      exact .inl ⟨hk, hd, rfl⟩
    · cases (decodeTx_rd_dataNonzero hk hd).symm.trans h
  · cases (decodeTx_wr hk).symm.trans h
    exact .inr (.inl ⟨hk, rfl⟩)
  · cases (decodeTx_poll hk).symm.trans h
    exact .inr (.inr ⟨hk, rfl⟩)
  · cases (decodeTx_kindReserved hk).symm.trans h

/-- A word the transcriber accepts is the encoding of its transaction: the word is its three fields, and those an RD
does not keep are 0. -/
theorem encode_of_decodeTx {i : Instr} (h : decodeTx w = .ok i) : encode i = .hosttx w := by
  have fields := txWord_fields w
  rcases decodeTx_ok_cases h with ⟨hk, hd, rfl⟩ | ⟨hk, rfl⟩ | ⟨hk, rfl⟩
  · rw [hk, hd] at fields
    exact congrArg RawWord.hosttx fields
  all_goals
    rw [hk] at fields
    exact congrArg RawWord.hosttx fields

end

/-! ### CMD32: the six assigned words and the illegal ones (R91, R92) -/

theorem assignedWord_cases {w : Word} (h : assignedWord w = true) :
    w = 1 ∨ w = 2 ∨ w = 3 ∨ w = 4 ∨ w = 5 ∨ w = 6 := by
  have range : 1 ≤ w.toNat ∧ w.toNat ≤ 6 := by simpa [assignedWord] using h
  bv_omega

/-- A CMD word decodes to a well-formed instruction whose encoding it is: the six assigned words to the commands, the
others to themselves as illegal words. -/
theorem decodeCmd_wf_encode (w : Word) : (decodeCmd w).wf = true ∧ encode (decodeCmd w) = .cmd32 w := by
  cases h : assignedWord w with
  | false =>
    rw [(decodeCmd_illegal_iff w).mpr h]
    exact ⟨by simp [Instr.wf, h], rfl⟩
  | true => rcases assignedWord_cases h with rfl | rfl | rfl | rfl | rfl | rfl <;> exact ⟨rfl, rfl⟩

/-- Settles O1: per format, the decoder reads back the fields the encoder wrote. -/
theorem decodeInvertsEncode : Obligations.DecodeInvertsEncode := by
  intro i hi
  cases i with
  | kdfResstar | akaVerify | akaAuth | bcdEnc | bcdDec | zeroize => rfl
  | illegal w =>
    have unassigned : assignedWord w = false := by simpa [Instr.wf] using hi
    exact congrArg Except.ok ((decodeCmd_illegal_iff w).mpr unassigned)
  | rd off => simpa [decode, encode] using decodeTx_rd (w := txWord 0b00 off 0) (by simp) (by simp)
  | wr off v => simpa [decode, encode] using decodeTx_wr (w := txWord 0b01 off v) (by simp)
  | poll off m => simpa [decode, encode] using decodeTx_poll (w := txWord 0b10 off m) (by simp)

/-- Settles O2: both formats keep every bit of the word, and a transaction is always well-formed. -/
theorem encodeInvertsDecode : Obligations.EncodeInvertsDecode := by
  intro r i h
  cases r with
  | cmd32 w =>
    cases h
    exact decodeCmd_wf_encode w
  | hosttx w =>
    refine ⟨?_, encode_of_decodeTx h⟩
    rcases decodeTx_ok_cases h with ⟨-, -, rfl⟩ | ⟨-, rfl⟩ | ⟨-, rfl⟩ <;> rfl

/-- Settles O5: each word is closed, so decoding it evaluates. -/
theorem specWordsDecode : Obligations.SpecWordsDecode := ⟨rfl, rfl, rfl, rfl, rfl, rfl, rfl, rfl⟩

/-! ### The bit fields of a CMD word (R90, R92) -/

/-- The illegal words by their fields: RSVD is not 0, or OPCODE is 0x00 or 0x07 to 0xFF. -/
theorem assignedWord_eq_false_iff (w : Word) :
    assignedWord w = false ↔ rsvdOf w ≠ 0 ∨ (opcodeOf w).toNat = 0 ∨ 7 ≤ (opcodeOf w).toNat := by
  have range : assignedWord w = false ↔ w.toNat = 0 ∨ 7 ≤ w.toNat := by
    simp [assignedWord]
    omega
  by_cases h : rsvdOf w = 0
  · simpa [h, opcodeOf_toNat h] using range
  · have := toNat_of_rsvdOf h
    exact iff_of_true (range.mpr (by omega)) (.inl h)

/-- With RSVD 0 a CMD word is the command word of its OPCODE. -/
theorem eq_cmdWord_of_rsvdOf {w : Word} (h : rsvdOf w = 0) : w = cmdWord (opcodeOf w) := by
  apply BitVec.eq_of_toNat_eq
  rw [cmdWord, BitVec.toNat_append, opcodeOf_toNat h]
  simp

end Sys2Proof
end

section
/-!
# What the two formats mean when they run: illegal CMD words and misaligned offsets (30_encoding.md R92, R96)
-/
namespace Sys2Proof.Machine

/-- Settles O3: an illegal word is an unassigned one, and the accept of a CMD write does not look at the word. -/
theorem illegalWordsAcceptedAndReported : Obligations.IllegalWordsAcceptedAndReported := by
  intro w s
  refine ⟨(decodeCmd_illegal_iff w).trans (assignedWord_eq_false_iff w), fun hrsvd => ?_, fun hp => ?_, rfl⟩
  · have word {op : BitVec 8} (hop : opcodeOf w = op) : decodeCmd w = decodeCmd (cmdWord op) :=
      congrArg decodeCmd (hop ▸ eq_cmdWord_of_rsvdOf hrsvd)
    exact ⟨word, word, word, word, word, word⟩
  · have wrote : exec (.wr 0x0C w) s = .next (s.writeReg .cmd w).advance := exec_wr rfl regAt_cmd w s
    obtain ⟨n, hn⟩ := exec_wr_cmd_idle hp wrote
    exact ⟨_, n, wrote, hn, by simp only [Engine.isBusy, hn]⟩

/-- Settles O4: the decoder looks at KIND and, for an RD, at DATA; OFF is checked by the transaction alone. -/
theorem transcriberReadsHosttx : Obligations.TranscriberReadsHosttx :=
  ⟨fun _ => ⟨decodeTx_rd, decodeTx_rd_dataNonzero, decodeTx_wr, decodeTx_poll, decodeTx_kindReserved⟩,
    fun s _ v h => ⟨exec_rd_misaligned h s, exec_wr_misaligned h s v, exec_poll_misaligned h s v⟩⟩

end Sys2Proof.Machine
end

section
/-!
# Pseudo-instructions and the transcriber (30_encoding.md R96 to R98)
-/
namespace Sys2Proof.Machine

/-! ### Programs: the transcribed words are accepted -/

/-- The word of a transaction decodes to it. -/
theorem decodeTx_of_encodeTx {i : Instr} {w : TxWord} (h : encodeTx i = some w) : decodeTx w = .ok i := by
  have henc : encode i = .hosttx w := by
    cases he : encode i with
    | cmd32 => simp [encodeTx, he] at h
    | hosttx w' => simpa [encodeTx, he] using h
  have hwf : i.wf = true := by
    cases i with
    | illegal => cases henc
    | _ => rfl
  have hdec := decodeInvertsEncode i hwf
  rwa [henc] at hdec

theorem programAccepted_cons (w : TxWord) (p : List TxWord) :
    programAccepted (w :: p) = true ↔ (∃ i, decodeTx w = .ok i) ∧ programAccepted p = true := by
  cases h : decodeTx w <;> simp [programAccepted, h]

theorem programAccepted_of_mapM_encodeTx {is : List Instr} {p : List TxWord} (h : is.mapM encodeTx = some p) :
    programAccepted p = true := by
  induction is generalizing p with
  | nil =>
    cases h
    rfl
  | cons i is ih =>
    obtain ⟨w, hw, q, hq, rfl⟩ : ∃ w, encodeTx i = some w ∧ ∃ q, is.mapM encodeTx = some q ∧ w :: q = p := by
      simpa [List.mapM_cons, Option.bind_eq_some_iff] using h
    exact (programAccepted_cons w q).mpr ⟨⟨i, decodeTx_of_encodeTx hw⟩, ih hq⟩

/-- A program is the expansions of its lines, one after the other, transcribed. -/
theorem transcribe_eq_some {ls : List Line} {p : List TxWord} (h : transcribe ls = some p) :
    ∃ iss, ls.mapM expandLine = some iss ∧ iss.flatten.mapM encodeTx = some p := by
  induction ls generalizing p with
  | nil =>
    cases h
    exact ⟨[], rfl, rfl⟩
  | cons l ls ih =>
    obtain ⟨is, his, ws, hws, rest, hrest, rfl⟩ : ∃ is, expandLine l = some is ∧ ∃ ws, is.mapM encodeTx = some ws ∧
        ∃ rest, transcribe ls = some rest ∧ ws ++ rest = p := by
      simpa [transcribe, Option.bind_eq_some_iff] using h
    obtain ⟨iss, hiss, hflat⟩ := ih hrest
    exact ⟨is :: iss, by simp [List.mapM_cons, his, hiss], by simp [hws, hflat]⟩

/-! ### LOAD -/

/-- A byte list as a byte string of its own length reads 0 past its end. -/
theorem byteAt_toArray (b : List Byte) (j : Nat) : byteAt (Vector.mk b.toArray rfl : ByteStr b.length) j = b.getD j 0 :=
  (toList_getD _ j).symm

/-- Lane `i` of word `w` of a LOAD is byte `4w + i` of the string, 0 where it is missing (R98). -/
theorem lane_packWord (b : List Byte) (w : Nat) {i : Nat} (hi : i < 4) :
    lane (packWord b w) i = b.getD (4 * w + i) 0 := by
  have word : packWord b w = wordOf (Vector.mk b.toArray rfl : ByteStr b.length) w := by
    simp only [packWord, wordOf, byteAt_toArray]
  rw [word, lane_wordOf _ w hi, byteAt_toArray]

theorem expandLine_load {f : Field} {b : List Byte} (h : b.length ≤ fieldBytes f) :
    expandLine (.load f b) = some (expandLoad f b) := if_pos h

theorem length_expandLoad (f : Field) (b : List Byte) : (expandLoad f b).length = fieldWords f := by
  simp [expandLoad]

theorem getElem?_expandLoad (f : Field) (b : List Byte) {w : Nat} (hw : w < fieldWords f) :
    (expandLoad f b)[w]? = some (.wr (wordOff f w) (packWord b w)) := by
  simp [expandLoad, wordOff, hw]

/-- EXEC takes no mnemonic but those of the six commands (R98). -/
theorem expandLine_exec_none {c : Instr} (h : c.isCommand = false) : expandLine (.exec c) = none := by
  simp [expandLine, commandWord, h]

theorem expandLine_tx {i : Instr} (h : i.isCmdWord = false) : expandLine (.tx i) = some [i] := by
  simp [expandLine, h]

/-- Settles O6: the words of a program encode transactions, which is why none is refused. -/
theorem pseudoInstructionsExpandAsListed : Obligations.PseudoInstructionsExpandAsListed := by
  refine ⟨fun _ => expandLine_tx, rfl, rfl, rfl, rfl, rfl, rfl, fun _ => expandLine_exec_none, rfl, rfl, rfl,
    fun f b hb => ?_, fun ls p h => ?_⟩
  · exact ⟨_, expandLine_load hb, length_expandLoad f b,
      fun w hw => ⟨_, getElem?_expandLoad f b hw, fun i hi => lane_packWord b w hi⟩⟩
  · obtain ⟨iss, hiss, hflat⟩ := transcribe_eq_some h
    exact ⟨⟨iss, hiss, hflat⟩, programAccepted_of_mapM_encodeTx hflat⟩

/-! ### LOAD performed in IDLE -/

/-- The engine once the words `ws` of a LOAD are stored, in this order. -/
def Engine.loadWords (e : Engine) (f : Field) (b : List Byte) (ws : List Nat) : Engine :=
  ws.foldl (fun e w => e.storeReg (.data f w) (packWord b w)) e

@[simp] theorem Engine.loadWords_nil (e : Engine) (f : Field) (b : List Byte) : e.loadWords f b [] = e := rfl

@[simp] theorem Engine.loadWords_cons (e : Engine) (f : Field) (b : List Byte) (w : Nat) (ws : List Nat) :
    e.loadWords f b (w :: ws) = (e.storeReg (.data f w) (packWord b w)).loadWords f b ws := rfl

theorem runAll_cons {i : Instr} {s t : State} (h : exec i s = .next t) (is : List Instr) :
    runAll (i :: is) s = runAll is t := by
  simp only [runAll, h]

/-- The WRs of a LOAD answer in IDLE, and store the words. -/
theorem runAll_load {f : Field} (b : List Byte) {ws : List Nat} (hws : ∀ w ∈ ws, w < fieldWords f) {s : State}
    (hp : s.engine.phase = .idle) :
    runAll (ws.map fun w => .wr (wordOff f w) (packWord b w)) s =
      .next { s with pc := s.pc + ws.length, engine := s.engine.loadWords f b ws } := by
  induction ws generalizing s with
  | nil => rfl
  | cons w ws ih =>
    obtain ⟨hw, hws⟩ := List.forall_mem_cons.mp hws
    obtain ⟨hr, ha⟩ := regAt_wordOff f hw
    have first := exec_wr_store ha hr nofun nofun nofun (packWord b w) hp
    rw [List.map_cons, runAll_cons first, ih hws ((s.engine.storeReg_phase _ _).trans hp)]
    simp [Nat.add_assoc, Nat.add_comm 1]

section
variable {f : Field} (hf : fieldTracked f = true) (b : List Byte)
include hf

/-- A stored word holds its bytes of the string; the other words are as before. -/
theorem Engine.loadWords_bytesOf (e : Engine) (ws : List Nat) {j : Nat} (hj : j < fieldBytes f) :
    ((e.loadWords f b ws).bytesOf f)[j]? = if j / 4 ∈ ws then some (b.getD j 0) else (e.bytesOf f)[j]? := by
  induction ws generalizing e with
  | nil => simp
  | cons w ws ih =>
    have stored : lane (packWord b (j / 4)) (j % 4) = b.getD j 0 := by
      rw [lane_packWord b (j / 4) (by omega), Nat.div_add_mod]
    rw [Engine.loadWords_cons, ih, Engine.storeReg_bytesOf e hf w _ hj]
    by_cases hw : j / 4 = w
    · subst hw
      simp [stored]
    · simp [hw]

theorem Engine.loadWords_maskBit (e : Engine) (ws : List Nat) {i : Nat} (hi : i < fieldWords f) :
    (e.loadWords f b ws).maskBit f i = (e.maskBit f i || decide (i ∈ ws)) := by
  induction ws generalizing e with
  | nil => simp
  | cons w ws ih =>
    rw [Engine.loadWords_cons, ih, Engine.storeReg_maskBit_same e hf w _ hi]
    simp [Bool.or_assoc, beq_eq_decide]

end

theorem Engine.length_bytesOf (e : Engine) (f : Field) : (e.bytesOf f).length = fieldBytes f := by
  cases f <;> exact Vector.length_toList

/-- A string padded with zeros reads 0 at a missing byte. -/
theorem getElem?_append_zeros {b : List Byte} {n j : Nat} (hj : j < n) :
    (b ++ List.replicate (n - b.length) 0)[j]? = some (b.getD j 0) := by
  by_cases h : j < b.length
  · simp [List.getElem?_append_left h, h]
  · have pad : j - b.length < n - b.length := by omega
    simp [List.getElem?_append_right (Nat.le_of_not_lt h), pad, h]

/-- Settles O7: every byte of the field lies in a word that the LOAD stores. -/
theorem loadStoresPaddedString : Obligations.LoadStoresPaddedString := by
  intro s f b hf hb hp
  refine ⟨_, _, expandLine_load hb, length_expandLoad f b, runAll_load b (fun _ => List.mem_range.mp) hp, ?_,
    fun w hw => ?_⟩
  · refine List.ext_getElem?' fun j hj => ?_
    have inField : j < fieldBytes f := by
      simp only [Engine.length_bytesOf, List.length_append, List.length_replicate] at hj
      omega
    have word : j / 4 < fieldWords f := by
      unfold fieldWords
      omega
    rw [Engine.loadWords_bytesOf hf b _ _ inField, if_pos (List.mem_range.mpr word), getElem?_append_zeros inField]
  · rw [Engine.loadWords_maskBit hf b _ _ hw]
    simp [hw]

end Sys2Proof.Machine
end

section
/-!
# The BCD unit: digits, packing, and the two commands (41_bcd.md R110 to R114)
-/
namespace Sys2Proof.Machine

/-! ### Digits and characters (R110) -/

theorem hexval_hexchar (d : BitVec 4) : hexval (hexchar d) = some d := by decide +revert

/-- A digit's character is a decimal digit or a lower-case letter. -/
theorem hexchar_range (d : BitVec 4) :
    0x30 ≤ (hexchar d).toNat ∧ (hexchar d).toNat ≤ 0x39 ∨
      0x61 ≤ (hexchar d).toNat ∧ (hexchar d).toNat ≤ 0x66 := by
  decide +revert

/-- Settles O41: the table of `hexval` is its definition, and that of `hexchar` has sixteen rows. -/
theorem digitCharacters : Obligations.DigitCharacters :=
  ⟨fun _ => rfl, fun d => ⟨hexval_hexchar d, hexchar_range d⟩⟩

theorem hexchar_ofNat_decimal {m : Nat} (h : m ≤ 9) : hexchar (BitVec.ofNat 4 m) = BitVec.ofNat 8 (0x30 + m) := by
  have hm : (BitVec.ofNat 4 m).toNat = m := (BitVec.toNat_ofNat m 4).trans (Nat.mod_eq_of_lt (by omega))
  rw [hexchar, hm, if_pos h]

theorem hexchar_ofNat_letter {m : Nat} (h : m ≤ 5) :
    hexchar (BitVec.ofNat 4 (m + 10)) = BitVec.ofNat 8 (0x61 + m) := by
  have hm : (BitVec.ofNat 4 (m + 10)).toNat = m + 10 :=
    (BitVec.toNat_ofNat (m + 10) 4).trans (Nat.mod_eq_of_lt (by omega))
  rw [hexchar, hm, if_neg (by omega), Nat.add_sub_cancel]

/-- The character of a character's digit is that character in lower case. -/
theorem hexchar_of_hexval {c : Byte} {d : BitVec 4} (h : hexval c = some d) :
    hexchar d = if 0x41 ≤ c.toNat ∧ c.toNat ≤ 0x46 then c + 0x20 else c := by
  simp only [hexval] at h
  split at h
  case isTrue decimal =>
    obtain rfl := Option.some.inj h
    rw [hexchar_ofNat_decimal (by omega), if_neg (by omega)]
    bv_omega
  split at h
  case isTrue lower =>
    obtain rfl := Option.some.inj h
    rw [hexchar_ofNat_letter (by omega), if_neg (by omega)]
    bv_omega
  split at h
  case isTrue upper =>
    obtain rfl := Option.some.inj h
    rw [hexchar_ofNat_letter (by omega), if_pos upper]
    bv_omega
  case isFalse => cases h

/-! ### Packed digits (R111 to R113) -/

theorem digitsValid_iff (t : ByteStr 16) (n : Nat) :
    digitsValid t n = true ↔ ∀ i < n, hexval (byteAt t i) ≠ none := by
  simp [digitsValid, Option.isSome_iff_ne_none]

theorem digitsValid_eq_false_iff (t : ByteStr 16) (n : Nat) :
    digitsValid t n = false ↔ ∃ i < n, hexval (byteAt t i) = none := by
  simp [digitsValid]

theorem hexval_eq_digitAt {t : ByteStr 16} {i : Nat} (h : hexval (byteAt t i) ≠ none) :
    hexval (byteAt t i) = some (digitAt t i) := by
  obtain ⟨d, hd⟩ := Option.ne_none_iff_exists'.mp h
  simp [digitAt, hd]

theorem packDigits_byte (t : ByteStr 16) {n k : Nat} (fill : BitVec 4) (hk : k < 8) (h : 2 * k < n) :
    (packDigits t n fill)[k] =
      (if 2 * k + 1 < n then digitAt t (2 * k + 1) else fill) ++ digitAt t (2 * k) := by
  simp [packDigits, h]

/-- Digit `2k` is in the low nibble of byte `k`. -/
theorem packDigits_low (t : ByteStr 16) {n k : Nat} (fill : BitVec 4) (hk : k < 8) (h : 2 * k < n) :
    (packDigits t n fill)[k].extractLsb' 0 4 = digitAt t (2 * k) := by
  rw [packDigits_byte t fill hk h]
  exact BitVec.extractLsb'_append_eq_right

/-- Digit `2k + 1`, or FILL where the string has ended, is in the high nibble of byte `k`. -/
theorem packDigits_high (t : ByteStr 16) {n k : Nat} (fill : BitVec 4) (hk : k < 8) (h : 2 * k < n) :
    (packDigits t n fill)[k].extractLsb' 4 4 = if 2 * k + 1 < n then digitAt t (2 * k + 1) else fill := by
  rw [packDigits_byte t fill hk h]
  exact BitVec.extractLsb'_append_eq_left

theorem packDigits_end (t : ByteStr 16) {n k : Nat} (fill : BitVec 4) (hk : k < 8) (h : n ≤ 2 * k) :
    (packDigits t n fill)[k] = 0 := by
  simp [packDigits, Nat.not_lt.mpr h]

theorem nibbleAt_even (p : ByteStr 8) {i : Nat} (h : i % 2 = 0) :
    nibbleAt p i = (byteAt p (i / 2)).extractLsb' 0 4 := if_pos h

theorem nibbleAt_odd (p : ByteStr 8) {i : Nat} (h : i % 2 = 1) :
    nibbleAt p i = (byteAt p (i / 2)).extractLsb' 4 4 := if_neg (by omega)

/-- Nibble `i` of the packed string is digit `i`. -/
theorem nibbleAt_packDigits (t : ByteStr 16) {n i : Nat} (fill : BitVec 4) (hn : n ≤ 16) (hi : i < n) :
    nibbleAt (packDigits t n fill) i = digitAt t i := by
  have hk : i / 2 < 8 := by omega
  have hbyte : 2 * (i / 2) < n := by omega
  rcases Nat.mod_two_eq_zero_or_one i with heven | hodd
  · have hdigit : 2 * (i / 2) = i := by omega
    rw [nibbleAt_even _ heven, byteAt_of_lt _ hk, packDigits_low t fill hk hbyte, hdigit]
  · have hdigit : 2 * (i / 2) + 1 = i := by omega
    rw [nibbleAt_odd _ hodd, byteAt_of_lt _ hk, packDigits_high t fill hk hbyte, hdigit, if_pos hi]

theorem unpackDigits_lt (p : ByteStr 8) {n i : Nat} (h : i < 16) (hi : i < n) :
    (unpackDigits p n)[i] = hexchar (nibbleAt p i) := by
  simp [unpackDigits, hi]

theorem unpackDigits_end (p : ByteStr 8) {n i : Nat} (h : i < 16) (hi : n ≤ i) : (unpackDigits p n)[i] = 0 := by
  simp [unpackDigits, Nat.not_lt.mpr hi]

/-- Unpacking packed digits gives the character of each digit. -/
theorem unpackDigits_packDigits (t : ByteStr 16) {n i : Nat} (fill : BitVec 4) (hn : n ≤ 16) (h : i < 16)
    (hi : i < n) :
    (unpackDigits (packDigits t n fill) n)[i] = hexchar (digitAt t i) := by
  rw [unpackDigits_lt _ h hi, nibbleAt_packDigits t fill hn hi]

/-! ### The two commands (R112, R113) -/

section
variable {s : State}

/-- BCD_ENC completes with the result of its pseudocode. -/
theorem exec_bcdEnc_of_run {r : CmdResult} (h : bcdEncRun s.engine = r) :
    exec .bcdEnc s = .next { s with engine := r.engine.report r.code } := h ▸ rfl

/-- BCD_DEC completes with the result of its pseudocode. -/
theorem exec_bcdDec_of_run {r : CmdResult} (h : bcdDecRun s.engine = r) :
    exec .bcdDec s = .next { s with engine := r.engine.report r.code } := h ▸ rfl

end

section
variable {e : Engine}

theorem bcdEncRun_unloaded (hl : e.bcdText.loaded = false) : bcdEncRun e = .raise e .missingInput := by
  simp [bcdEncRun, hl]

theorem bcdEncRun_tooLong (hl : e.bcdText.loaded = true) (hn : 16 < e.ndig.toNat) :
    bcdEncRun e = .raise e .badBcdLen := by
  simp [bcdEncRun, hl, hn]

theorem bcdEncRun_badDigit (hl : e.bcdText.loaded = true) (hn : e.ndig.toNat ≤ 16)
    (hd : ∃ i < e.ndig.toNat, hexval (byteAt e.bcdText.bytes i) = none) : bcdEncRun e = .raise e .badDigit := by
  simp [bcdEncRun, hl, Nat.not_lt.mpr hn, (digitsValid_eq_false_iff _ _).mpr hd]

theorem bcdEncRun_ok (hl : e.bcdText.loaded = true) (hn : e.ndig.toNat ≤ 16)
    (hd : ∀ i < e.ndig.toNat, hexval (byteAt e.bcdText.bytes i) ≠ none) :
    bcdEncRun e = .ok { e with bcdPacked := .full (packDigits e.bcdText.bytes e.ndig.toNat e.fill) } := by
  simp [bcdEncRun, hl, Nat.not_lt.mpr hn, (digitsValid_iff _ _).mpr hd]

theorem bcdDecRun_unloaded (hl : e.bcdPacked.loaded = false) : bcdDecRun e = .raise e .missingInput := by
  simp [bcdDecRun, hl]

theorem bcdDecRun_tooLong (hl : e.bcdPacked.loaded = true) (hn : 16 < e.ndig.toNat) :
    bcdDecRun e = .raise e .badBcdLen := by
  simp [bcdDecRun, hl, hn]

theorem bcdDecRun_ok (hl : e.bcdPacked.loaded = true) (hn : e.ndig.toNat ≤ 16) :
    bcdDecRun e = .ok { e with bcdText := .full (unpackDigits e.bcdPacked.bytes e.ndig.toNat) } := by
  simp [bcdDecRun, hl, Nat.not_lt.mpr hn]

end

/-- Settles O39: each end of BCD_ENC is a completion, and the packed bytes hold the digits by the packing law. -/
theorem bcdEncResult : Obligations.BcdEncResult := by
  intro s
  refine ⟨rfl, fun hl => exec_bcdEnc_of_run (bcdEncRun_unloaded hl),
    fun hl hn => exec_bcdEnc_of_run (bcdEncRun_tooLong hl hn),
    fun hl hn hd => exec_bcdEnc_of_run (bcdEncRun_badDigit hl hn hd),
    fun hl hn hd => ⟨_, exec_bcdEnc_of_run (bcdEncRun_ok hl hn hd),
      fun k hk => ⟨fun hlow => ?_, fun hhigh => ?_, fun hodd => ?_, packDigits_end _ _ hk⟩⟩⟩
  · rw [packDigits_low _ _ hk hlow]
    exact (hexval_eq_digitAt (hd _ hlow)).symm
  · rw [packDigits_high _ _ hk (by omega), if_pos hhigh]
    exact (hexval_eq_digitAt (hd _ hhigh)).symm
  · rw [packDigits_high _ _ hk (by omega), if_neg (by omega)]

/-- Settles O40: each end of BCD_DEC is a completion, and the characters are those of the nibbles in order. -/
theorem bcdDecResult : Obligations.BcdDecResult := by
  intro s
  refine ⟨rfl, fun hl => exec_bcdDec_of_run (bcdDecRun_unloaded hl),
    fun hl hn => exec_bcdDec_of_run (bcdDecRun_tooLong hl hn),
    fun hl hn => ⟨_, exec_bcdDec_of_run (bcdDecRun_ok hl hn),
      fun i h => ⟨fun hi heven => ?_, fun hi hodd => ?_, unpackDigits_end _ h⟩⟩⟩
  · rw [unpackDigits_lt _ h hi, nibbleAt_even _ heven]
  · rw [unpackDigits_lt _ h hi, nibbleAt_odd _ hodd]

/-- Settles O42: BCD_ENC leaves NDIG and packs digit `j` as nibble `j`, whose character is the lower-case one. -/
theorem bcdRoundTrip : Obligations.BcdRoundTrip := by
  intro s hl hn hd
  refine ⟨_, _, exec_bcdEnc_of_run (bcdEncRun_ok hl hn hd),
    exec_bcdDec_of_run (bcdDecRun_ok (Tracked.full_loaded _) hn), rfl, fun j hj => (byteAt_of_lt _ hj).trans ?_⟩
  split
  case isTrue hlt =>
    have lowered := hexchar_of_hexval (hexval_eq_digitAt (hd j hlt))
    exact (unpackDigits_packDigits _ _ hn hj hlt).trans lowered
  case isFalse hge => exact unpackDigits_end _ hj (Nat.le_of_not_lt hge)

end Sys2Proof.Machine
end

section
/-!
# The AKA unit: AUTN, and the ends of AKA_CORE (42_aka.md R130 to R139; 60_exceptions.md R220, R225)
-/
namespace Sys2Proof.Machine

/-! ### Byte strings: slices, padding and XOR (00_scope.md R9) -/

/-- A slice that ends inside the string is those bytes of it. -/
theorem toList_slice {n : Nat} (b : ByteStr n) {i m : Nat} (h : i + m ≤ n) :
    (slice b i m).toList = (b.toList.drop i).take m := by
  apply List.ext_getElem
  · simp only [Vector.length_toList, List.length_take, List.length_drop]
    omega
  · intro j hj _
    have hj : j < m := by simpa using hj
    have hin : i + j < n := by omega
    simp [slice, byteAt_of_lt b hin]

/-- Padding with zeros after `len` bytes does not change the first `len`. -/
theorem take_toList_keepFirst {n : Nat} (b : ByteStr n) (len : Nat) :
    (keepFirst b len).toList.take len = b.toList.take len := by
  apply List.ext_getElem
  · simp
  · intro j hj _
    have hj : j < len ∧ j < n := by simpa using hj
    simp [keepFirst, hj.1]

theorem toList_zeroBytes (n : Nat) : (zeroBytes n).toList = List.replicate n 0 := by
  simp [zeroBytes]

/-- Settles O38: the three slices of AUTN lie end to end. -/
theorem autnSplitAndSqnRecovery : Obligations.AutnSplitAndSqnRecovery := by
  refine fun autn ak => ⟨?_, fun j hj => ?_⟩
  · have hlen : (autn.toList.drop 8).length ≤ 8 := by simp
    rw [sqnakOf, amfOf, macnOf, toList_slice autn (by decide), toList_slice autn (by decide),
      toList_slice autn (by decide), List.take_of_length_le hlen, List.append_assoc, List.drop_zero,
      ← List.drop_drop (i := 2) (j := 6), List.take_append_drop, List.take_append_drop]
  · have hin : j < 16 := by omega
    simp [xorBytes, sqnakOf, slice, byteAt_of_lt autn hin]

/-! ### The ends of AKA_CORE (R134, R137, R138) -/

theorem Engine.akaLoaded_iff (e : Engine) :
    e.akaLoaded = true ↔ e.k.loaded = true ∧ e.opc.loaded = true ∧ e.rand.loaded = true ∧ e.autn.loaded = true := by
  simp [Engine.akaLoaded, and_assoc]

theorem Engine.plmnBad_iff (e : Engine) : e.plmnBad = true ↔ 999 < e.mcc.toNat ∨ 999 < e.mnc.toNat := by
  simp [Engine.plmnBad]

section
variable {vectors : VectorsPort} {f1 : F1Port} {auth : Bool} {e : Engine}

theorem akaCore_unloaded (hl : e.akaLoaded = false) :
    akaCore vectors f1 auth e = .raise e.akaClear .missingInput := by
  simp [akaCore, hl]

theorem akaCore_badPlmn (hl : e.akaLoaded = true) (hp : e.plmnBad = true) :
    akaCore vectors f1 true e = .raise e.akaClear .badPlmn := by
  simp [akaCore, hl, hp]

/-- With the inputs loaded and, for AKA_AUTH, a legal PLMN, the port's reply chooses the end. -/
theorem akaCore_of_ready (hl : e.akaLoaded = true) (hp : (auth && e.plmnBad) = false) :
    let v := e.callVectors vectors
    let lenOk := 1 ≤ v.resLen.toNat ∧ v.resLen.toNat ≤ 16
    let e1 := e.akaRecovered f1 v
    (¬ lenOk → akaCore vectors f1 auth e = .raise e.akaClear.wipe .badResLen) ∧
    (lenOk → e1.maca ≠ macnOf e.autn.bytes → akaCore vectors f1 auth e = .raise e1.wipe .authFailure) ∧
    (lenOk → e1.maca = macnOf e.autn.bytes → akaCore vectors f1 auth e =
      .ok (if auth then (e1.installVectors v).deriveResstar else e1.installVectors v)) := by
  rcases akaCore_cases vectors f1 auth e with
    ⟨h, _⟩ | ⟨_, hauth, h, _⟩ | ⟨_, _, hn, hr⟩ | ⟨_, _, hn, hm, hr⟩ | ⟨_, _, hn, hm, hr⟩
  · simp [hl] at h
  · simp [hauth, h] at hp
  · exact ⟨fun _ => hr, fun hn' => by omega, fun hn' => by omega⟩
  · exact ⟨fun hn' => absurd hn hn', fun _ _ => hr, fun _ hm' => absurd hm' hm⟩
  · exact ⟨fun hn' => absurd hn hn', fun _ hm' => absurd hm hm', fun _ _ => hr⟩

end

/-- Settles O35: both checks come before the port is called, and only the clears come before them. -/
theorem akaInputChecks : Obligations.AkaInputChecks := by
  refine fun s => ⟨fun hready => ?_, fun hready hplmn => ?_⟩
  · have hl : s.engine.akaLoaded = false := Bool.eq_false_iff.mpr (hready ∘ s.engine.akaLoaded_iff.mp)
    exact ⟨congrArg (complete · s) (akaCore_unloaded hl), congrArg (complete · s) (akaCore_unloaded hl)⟩
  · have hl := s.engine.akaLoaded_iff.mpr hready
    have hp := s.engine.plmnBad_iff.mpr hplmn
    exact congrArg (complete · s) (akaCore_badPlmn hl hp)

/-- Settles O36: AKA_CORE without the derivation, which checks no PLMN. -/
theorem akaVerifyResult : Obligations.AkaVerifyResult := by
  intro vectors f1 s e v sqn maca lenOk hk hopc hrand hautn
  have hl := e.akaLoaded_iff.mpr ⟨hk, hopc, hrand, hautn⟩
  obtain ⟨badLen, mismatch, matched⟩ := akaCore_of_ready (vectors := vectors) (f1 := f1) (auth := false) hl rfl
  refine ⟨_, rfl, by rintro rfl rfl; rfl, fun hn => ?_, fun hn hm => ?_, fun hn hm => ?_⟩
  · rw [badLen hn]
    rfl
  · rw [mismatch hn hm]
    rfl
  · rw [matched hn hm]
    rfl

/-- The derivation after an install reads the port's RES at its own length: the padding of RES is not read (R171). -/
theorem Engine.deriveResstar_installVectors (e : Engine) (v : VectorsReply) :
    (e.installVectors v).deriveResstar =
      { e.installVectors v with
        resstar := resstarFn e.mcc e.mnc e.rand.bytes (v.res.toList.take v.resLen.toNat) v.ck v.ik
        resstarValid := true } := by
  rw [← take_toList_keepFirst v.res]
  rfl

/-- Settles O37: AKA_CORE with the derivation, which reads the RES that the match has installed. -/
theorem akaAuthResult : Obligations.AkaAuthResult := by
  intro vectors f1 s e v sqn maca lenOk hk hopc hrand hautn hmcc hmnc
  have hl := e.akaLoaded_iff.mpr ⟨hk, hopc, hrand, hautn⟩
  have hp : e.plmnBad = false := by
    rw [Bool.eq_false_iff, ne_eq, e.plmnBad_iff]
    omega
  obtain ⟨badLen, mismatch, matched⟩ := akaCore_of_ready (vectors := vectors) (f1 := f1) (auth := true) hl hp
  rw [if_pos rfl, Engine.deriveResstar_installVectors] at matched
  refine ⟨_, rfl, by rintro rfl rfl; rfl, fun hn => ?_, fun hn hm => ?_, fun hn hm => ?_⟩
  · rw [badLen hn]
    rfl
  · rw [mismatch hn hm]
    rfl
  · rw [matched hn hm]
    rfl

/-! ### AUTH_FAILURE (R137, R138, R140; 60_exceptions.md R220) -/

/-- AKA_CORE reports AUTH_FAILURE at a MAC mismatch only, with the engine wiped. -/
theorem akaCore_of_authFailure {vectors : VectorsPort} {f1 : F1Port} {auth : Bool} {e : Engine}
    (h : (akaCore vectors f1 auth e).code = .authFailure) :
    akaCore vectors f1 auth e = .raise (e.akaRecovered f1 (e.callVectors vectors)).wipe .authFailure := by
  rcases akaCore_cases vectors f1 auth e with
    ⟨_, hr⟩ | ⟨_, _, _, hr⟩ | ⟨_, _, _, hr⟩ | ⟨_, _, _, _, hr⟩ | ⟨_, _, _, _, hr⟩
  case inr.inr.inr.inl => exact hr
  all_goals
    rw [hr] at h
    cases h

/-- WIPE leaves CK, IK and RES zero and unloaded (R137). -/
theorem Engine.wipe_zeroed (e : Engine) {f : Field} (hf : f = .ck ∨ f = .ik ∨ f = .res) :
    e.wipe.bytesOf f = List.replicate 16 0 ∧ ∀ w, e.wipe.maskBit f w = false := by
  rcases hf with rfl | rfl | rfl <;> exact ⟨toList_zeroBytes 16, fun _ => BitVec.getLsbD_zero⟩

theorem kdfResstarRun_code_ne_authFailure (e : Engine) : (kdfResstarRun e).code ≠ .authFailure := by
  rcases kdfResstarRun_cases e with ⟨_, hr⟩ | ⟨_, _, hr⟩ | ⟨_, _, _, hr⟩ | ⟨_, _, _, hr⟩ <;> rw [hr] <;> nofun

theorem bcdEncRun_code_ne_authFailure (e : Engine) : (bcdEncRun e).code ≠ .authFailure := by
  rcases bcdEncRun_cases e with ⟨_, hr⟩ | ⟨_, _, hr⟩ | ⟨_, _, _, hr⟩ | ⟨_, _, _, hr⟩ <;> rw [hr] <;> nofun

theorem bcdDecRun_code_ne_authFailure (e : Engine) : (bcdDecRun e).code ≠ .authFailure := by
  rcases bcdDecRun_cases e with ⟨_, hr⟩ | ⟨_, _, hr⟩ | ⟨_, _, hr⟩ <;> rw [hr] <;> nofun

/-- Settles O44: what a MAC mismatch leaves is the wiped engine, and no other command has a MAC to compare. -/
theorem authFailureWipesCkIkRes : Obligations.AuthFailureWipesCkIkRes := by
  refine ⟨fun vectors f1 auth s t ht hcode => ?_, fun c s t hc hverify hauth ht => ?_, fun s => ⟨rfl, rfl⟩⟩
  · cases complete_next ht
    rw [akaCore_of_authFailure hcode]
    exact ⟨rfl, rfl, rfl, rfl, rfl, fun f hf => Engine.wipe_zeroed _ hf⟩
  · cases c with
    | kdfResstar => rw [complete_next ht]; exact kdfResstarRun_code_ne_authFailure s.engine
    | akaVerify => exact absurd rfl hverify
    | akaAuth => exact absurd rfl hauth
    | bcdEnc => rw [complete_next ht]; exact bcdEncRun_code_ne_authFailure s.engine
    | bcdDec => rw [complete_next ht]; exact bcdDecRun_code_ne_authFailure s.engine
    | zeroize | illegal => rw [complete_next ht]; nofun
    | rd | wr | poll => cases hc

end Sys2Proof.Machine
end

section
/-!
# The gate on RES\* (42_aka.md R140; 10_state.md R31; 70_reset_and_hazards.md R260)

The gate looks at the engine's RESSTAR_VALID and MAC_OK only. A command that is a RES\* writer leaves RES\* valid at its
error-free end only; every other step resets the engine or leaves both flags alone.
-/
namespace Sys2Proof.Machine

/-! ### What the gate depends on -/

/-- RESSTAR_VALID and MAC_OK are the same in the two engine states. -/
def Engine.SameGateFlags (e e' : Engine) : Prop := e'.resstarValid = e.resstarValid ∧ e'.macOk = e.macOk

theorem Gate.of_sameGateFlags {last : Option (Instr × ErrCode)} {s t : State} (h : Gate last s)
    (same : s.engine.SameGateFlags t.engine) : Gate last t := by
  obtain ⟨hvalid, hmac⟩ := same
  unfold Gate
  rw [hvalid, hmac]
  exact h

/-- While RES\* is invalid the gate holds whatever the last writer was. -/
theorem gate_of_invalid {s : State} (h : s.engine.resstarValid = false) (last : Option (Instr × ErrCode)) :
    Gate last s := fun hvalid => by simp [h] at hvalid

/-- Settles O54: after reset RES\* is invalid. -/
theorem resetMeetsGate : Obligations.ResetMeetsGate := gate_of_invalid rfl none

/-! ### Commands -/

/-- KDF_RESSTAR leaves a valid RES\* at its error-free end only (43_kdf.md R172). -/
theorem kdfResstarRun_of_resstarValid {e : Engine} (h : (kdfResstarRun e).engine.resstarValid = true) :
    (kdfResstarRun e).code = .none := by
  rcases kdfResstarRun_cases e with ⟨_, hr⟩ | ⟨_, _, hr⟩ | ⟨_, _, _, hr⟩ | ⟨_, _, _, hr⟩ <;> rw [hr] at h ⊢
  case inr.inr.inr => rfl
  all_goals cases h

/-- AKA_CORE leaves a valid RES\* at the MAC match of AKA_AUTH only (R137, R138). -/
theorem akaCore_of_resstarValid {vectors : VectorsPort} {f1 : F1Port} {auth : Bool} {e : Engine}
    (h : (akaCore vectors f1 auth e).engine.resstarValid = true) :
    auth = true ∧ (akaCore vectors f1 auth e).code = .none ∧ (akaCore vectors f1 auth e).engine.macOk = true := by
  rcases akaCore_cases vectors f1 auth e with
    ⟨_, hr⟩ | ⟨_, _, _, hr⟩ | ⟨_, _, _, hr⟩ | ⟨_, _, _, _, hr⟩ | ⟨_, _, _, _, hr⟩ <;> rw [hr] at h ⊢
  case inr.inr.inr.inr =>
    cases auth with
    | true => exact ⟨rfl, rfl, rfl⟩
    | false => cases h
  all_goals cases h

/-- After a RES\* writer the gate holds with that writer and its code, whatever held before (R140). -/
theorem gate_of_resstarWriter {i : Instr} (hi : writesResstar i = true) {s t : State} (h : exec i s = .next t) :
    Gate (some (i, t.engine.errcode)) t := by
  intro hvalid
  cases i with
  | kdfResstar =>
    cases complete_next h
    exact .inl (congrArg (fun c => some (Instr.kdfResstar, c)) (kdfResstarRun_of_resstarValid hvalid))
  | akaVerify =>
    cases complete_next h
    cases (akaCore_of_resstarValid hvalid).1
  | akaAuth =>
    cases complete_next h
    obtain ⟨-, hcode, hmac⟩ := akaCore_of_resstarValid hvalid
    exact .inr ⟨congrArg (fun c => some (Instr.akaAuth, c)) hcode, hmac⟩
  | zeroize =>
    cases complete_next h
    cases hvalid
  | bcdEnc | bcdDec | illegal | rd | wr | poll => cases hi

theorem bcdEncRun_sameGateFlags (e : Engine) : e.SameGateFlags (bcdEncRun e).engine := by
  rcases bcdEncRun_cases e with ⟨_, hr⟩ | ⟨_, _, hr⟩ | ⟨_, _, _, hr⟩ | ⟨_, _, _, hr⟩ <;> rw [hr] <;> exact ⟨rfl, rfl⟩

theorem bcdDecRun_sameGateFlags (e : Engine) : e.SameGateFlags (bcdDecRun e).engine := by
  rcases bcdDecRun_cases e with ⟨_, hr⟩ | ⟨_, _, hr⟩ | ⟨_, _, hr⟩ <;> rw [hr] <;> exact ⟨rfl, rfl⟩

/-- A command that is no RES\* writer leaves RESSTAR_VALID and MAC_OK alone (44_maintenance.md R203). -/
theorem exec_command_sameGateFlags {i : Instr} (hi : i.isCmdWord = true) (hw : writesResstar i = false) {s t : State}
    (h : exec i s = .next t) : s.engine.SameGateFlags t.engine := by
  cases i with
  | bcdEnc => rw [complete_next h]; exact bcdEncRun_sameGateFlags s.engine
  | bcdDec => rw [complete_next h]; exact bcdDecRun_sameGateFlags s.engine
  | illegal => rw [complete_next h]; exact ⟨rfl, rfl⟩
  | kdfResstar | akaVerify | akaAuth | zeroize => cases hw
  | rd | wr | poll => cases hi

/-! ### Host transactions -/

theorem Engine.storeReg_sameGateFlags (e : Engine) (r : Reg) (v : Word) : e.SameGateFlags (e.storeReg r v) := by
  cases r with
  | data f w => cases f <;> simp only [Engine.SameGateFlags, Engine.storeReg, and_self]
  | _ => simp only [Engine.SameGateFlags, Engine.storeReg, and_self]

/-- A register write is a soft reset or leaves RESSTAR_VALID and MAC_OK alone. -/
theorem State.writeReg_reset_or_sameGateFlags (s : State) (r : Reg) (v : Word) :
    (r = .ctrl ∧ v[1] = true ∧ (s.writeReg r v).engine = Engine.reset) ∨
    (¬ (r = .ctrl ∧ v[1] = true) ∧ s.engine.SameGateFlags (s.writeReg r v).engine) := by
  rcases s.writeReg_cases r v with ⟨hc, hv, hw⟩ | ⟨_, hv, hw⟩ | ⟨hs, hw⟩ | ⟨hc, _, _, _, hw⟩ | ⟨hc, _, _, _, hw⟩ |
    ⟨hcmd, _, hw⟩ | ⟨hc, _, _, _, hw⟩ <;> rw [hw]
  · exact .inl ⟨hc, hv, rfl⟩
  · exact .inr ⟨by simp [hv], rfl, rfl⟩
  · exact .inr ⟨by simp [hs], rfl, rfl⟩
  · exact .inr ⟨by simp [hc], rfl, rfl⟩
  · exact .inr ⟨by simp [hc], rfl, rfl⟩
  · exact .inr ⟨by simp [hcmd], rfl, rfl⟩
  · exact .inr ⟨by simp [hc], s.engine.storeReg_sameGateFlags r v⟩

/-- A host transaction is a soft reset or leaves RESSTAR_VALID and MAC_OK alone (10_state.md R24). -/
theorem exec_tx_reset_or_sameGateFlags {i : Instr} (hi : i.isCmdWord = false) {s t : State} (h : exec i s = .next t) :
    (isSoftReset i = true ∧ t.engine = Engine.reset) ∨
    (isSoftReset i = false ∧ s.engine.SameGateFlags t.engine) := by
  obtain ⟨-, -, -, ⟨hread, he⟩ | ⟨off, v, rfl, ha, -, he⟩⟩ := exec_tx_cases hi h <;> rw [he]
  · rcases hread with ⟨off, rfl⟩ | ⟨off, m, rfl⟩ <;> exact .inr ⟨rfl, rfl, rfl⟩
  · have hreset : isSoftReset (.wr off v) = true ↔ regAt off = .ctrl ∧ v[1] = true := by
      simp [isSoftReset, regAt_eq_ctrl ha]
    rcases s.writeReg_reset_or_sameGateFlags (regAt off) v with ⟨hc, hv, hw⟩ | ⟨hne, same⟩
    · exact .inl ⟨hreset.mpr ⟨hc, hv⟩, hw⟩
    · exact .inr ⟨Bool.eq_false_iff.mpr (hne ∘ hreset.mp), same⟩

theorem writesResstar_tx {i : Instr} (hi : i.isCmdWord = false) : writesResstar i = false := by
  cases i with
  | rd | wr | poll => rfl
  | kdfResstar | akaVerify | akaAuth | bcdEnc | bcdDec | zeroize | illegal => cases hi

theorem isSoftReset_command {i : Instr} (hi : i.isCmdWord = true) : isSoftReset i = false := by
  cases i with
  | kdfResstar | akaVerify | akaAuth | bcdEnc | bcdDec | zeroize | illegal => rfl
  | rd | wr | poll => cases hi

theorem State.passSlot_sameGateFlags (s : State) : s.engine.SameGateFlags s.passSlot.engine := by
  obtain ⟨ph, hs, -⟩ := s.passSlot_eq
  rw [hs]
  exact ⟨rfl, rfl⟩

/-! ### One step -/

section
variable {last : Option (Instr × ErrCode)} {s s' t : State}

theorem nextWriter_of_run {i : Instr} (h : nextMove s = .run i s') :
    nextWriter last s t =
      if writesResstar i then some (i, t.engine.errcode) else if isSoftReset i then none else last := by
  simp only [nextWriter, h]

theorem nextWriter_of_wait (h : nextMove s = .wait s') : nextWriter last s t = last := by
  simp only [nextWriter, h]

end

/-- Settles O53: a step with the history it leaves is a reset, a RES\* writer, or keeps both the gate's flags and the
last writer. -/
theorem stepKeepsGate : Obligations.StepKeepsGate := by
  intro last s t h ht
  rcases step_cases ht with ⟨l, -, hm, rfl⟩ | ⟨p, n, -, -, hm, he⟩ | ⟨w, i, -, -, hd, hm, he⟩ | ⟨-, -, hm, rfl⟩
  · exact gate_of_invalid rfl _
  · have hi := decodeCmd_isCmdWord p
    rw [nextWriter_of_run hm, isSoftReset_command hi]
    split
    case isTrue hw => exact gate_of_resstarWriter hw he
    case isFalse hw =>
      have same := exec_command_sameGateFlags (s := { s with rst := s.rst.tail }) hi (Bool.eq_false_iff.mpr hw) he
      exact h.of_sameGateFlags same
  · have hi := decodeTx_isTx hd
    rw [nextWriter_of_run hm, writesResstar_tx hi]
    rcases exec_tx_reset_or_sameGateFlags hi he with ⟨-, hreset⟩ | ⟨hsoft, same⟩
    · exact gate_of_invalid (by rw [hreset]; rfl) _
    · have slot : Gate last (State.passSlot { s with rst := s.rst.tail }) :=
        h.of_sameGateFlags (State.passSlot_sameGateFlags { s with rst := s.rst.tail })
      rw [hsoft]
      exact slot.of_sameGateFlags same
  · rw [nextWriter_of_wait hm]
    exact h

end Sys2Proof.Machine
end

section
/-!
# SHA-256: padding, parsing, and the computation (43_kdf.md R160 to R164)
-/
namespace Sys2Proof.Machine

/-! ### Big-endian numbers (R160) -/

@[simp] theorem length_be32 (w : Word) : (be32 w).length = 4 := rfl

@[simp] theorem length_be64 (n : Nat) : (be64 n).length = 8 := rfl

/-- The number a big-endian byte string spells. -/
def beValue (bs : List Byte) : Nat := bs.foldl (fun a b => 256 * a + b.toNat) 0

/-- Lane `i` of a word as a digit of the word in base 256. -/
theorem toNat_lane (w : Word) (i : Nat) : (lane w i).toNat = w.toNat / 2 ^ (24 - 8 * i) % 256 := by
  rw [lane, BitVec.extractLsb'_toNat, Nat.shiftRight_eq_div_pow]

/-- `be32` spells its word, after whatever bytes come before. -/
theorem foldl_be32 (a : Nat) (w : Word) :
    (be32 w).foldl (fun a b => 256 * a + b.toNat) a = 2 ^ 32 * a + w.toNat := by
  simp only [be32, List.foldl_cons, List.foldl_nil, toNat_lane]
  omega

theorem beValue_be32 (w : Word) : beValue (be32 w) = w.toNat := by
  rw [beValue, foldl_be32, Nat.mul_zero, Nat.zero_add]

/-- `be64` spells its number below 2^64; its two words are the quotient and the remainder by 2^32. -/
theorem beValue_be64 {n : Nat} (h : n < 2 ^ 64) : beValue (be64 n) = n := by
  simp only [beValue, be64, List.foldl_append, foldl_be32, BitVec.toNat_ofNat]
  omega

/-! ### Padding (R161) -/

theorem padZeros_eq (len : Nat) : (padZeros len : Int) = (55 - (len : Int)) % 64 := by
  unfold padZeros
  omega

theorem length_pad (m : List Byte) : (pad m).length = m.length + 1 + padZeros m.length + 8 := by
  simp only [pad, List.length_append, List.length_singleton, List.length_replicate, length_be64]

/-- The zeros fill the last block. -/
theorem padZeros_fills (len : Nat) : (len + 1 + padZeros len + 8) % 64 = 0 := by
  unfold padZeros
  omega

/-- No smaller number of zeros fills the last block, as `padZeros` is below 64. -/
theorem padZeros_le {len z : Nat} (h : (len + 1 + z + 8) % 64 = 0) : padZeros len ≤ z := by
  unfold padZeros
  omega

theorem length_pad_mod (m : List Byte) : (pad m).length % 64 = 0 := by
  rw [length_pad, padZeros_fills]

/-! ### Parsing (R161) -/

/-- The bytes of a word put together from four bytes are these bytes. -/
theorem be32_append (b0 b1 b2 b3 : Byte) : be32 (b0 ++ b1 ++ b2 ++ b3) = [b0, b1, b2, b3] := by
  have lanes {i : Nat} (hi : i < 4) : lane (b0 ++ b1 ++ b2 ++ b3) i = [b0, b1, b2, b3].getD (4 * 0 + i) 0 :=
    lane_packWord [b0, b1, b2, b3] 0 hi
  rw [be32, lanes (by decide), lanes (by decide), lanes (by decide), lanes (by decide)]
  rfl

theorem length_toWords : ∀ bs : List Byte, (toWords bs).length = bs.length / 4
  | _ :: _ :: _ :: _ :: rest => by
    simp only [toWords, List.length_cons, length_toWords rest]
    omega
  | [] | [_] | [_, _] | [_, _, _] => by simp [toWords]

/-- Whole words lose no byte. -/
theorem flatMap_be32_toWords : ∀ {bs : List Byte}, bs.length % 4 = 0 → (toWords bs).flatMap be32 = bs
  | b0 :: b1 :: b2 :: b3 :: rest, h => by
    have hrest : rest.length % 4 = 0 := by
      simp only [List.length_cons] at h
      omega
    rw [toWords, List.flatMap_cons, be32_append, flatMap_be32_toWords hrest]
    rfl
  | [], _ => rfl

@[simp] theorem length_blocksOf (n : Nat) (ws : List Word) : (blocksOf n ws).length = n := by
  induction n generalizing ws with
  | zero => rfl
  | succ n ih => rw [blocksOf, List.length_cons, ih]

/-- `n` blocks take `16n` words: each block has 16 of them. -/
theorem length_of_mem_blocksOf {n : Nat} {ws : List Word} (h : ws.length = 16 * n) :
    ∀ b ∈ blocksOf n ws, b.length = 16 := by
  induction n generalizing ws with
  | zero => exact fun _ hb => absurd hb List.not_mem_nil
  | succ n ih =>
    rw [blocksOf, List.forall_mem_cons]
    exact ⟨by rw [List.length_take]; omega, ih (by rw [List.length_drop]; omega)⟩

/-- `n` blocks of `16n` words are these words in order. -/
theorem flatten_blocksOf {n : Nat} {ws : List Word} (h : ws.length = 16 * n) : (blocksOf n ws).flatten = ws := by
  induction n generalizing ws with
  | zero => exact (List.eq_nil_of_length_eq_zero h).symm
  | succ n ih =>
    rw [blocksOf, List.flatten_cons, ih (by rw [List.length_drop]; omega), List.take_append_drop]

@[simp] theorem length_messageBlocks (m : List Byte) : (messageBlocks m).length = (pad m).length / 64 :=
  length_blocksOf _ _

/-- A padded message is a whole number of blocks of words. -/
theorem length_toWords_pad (m : List Byte) : (toWords (pad m)).length = 16 * ((pad m).length / 64) := by
  have := length_pad_mod m
  rw [length_toWords]
  omega

/-- The bytes of the blocks are the padded message. -/
theorem flatMap_be32_messageBlocks (m : List Byte) : (messageBlocks m).flatten.flatMap be32 = pad m := by
  have := length_pad_mod m
  rw [messageBlocks, flatten_blocksOf (length_toWords_pad m), flatMap_be32_toWords (by omega)]

/-- Settles O47: the padding fills the last block with the fewest zeros, and parsing loses no byte. -/
theorem paddingIsLeastMultipleOfBlock : Obligations.PaddingIsLeastMultipleOfBlock := fun m =>
  ⟨padZeros m.length, rfl, length_be64 _, padZeros_eq _, length_pad_mod m, fun _ => padZeros_le,
    length_messageBlocks m, length_of_mem_blocksOf (length_toWords_pad m), flatMap_be32_messageBlocks m,
    beValue_be32, fun h => beValue_be64 (by omega)⟩

/-! ### Constants (R162, R163) -/

/-- The primes below 312, which are the first 64. -/
def primesBelow312 : List Nat :=
  (List.range 312).filter fun p => 2 ≤ p && (List.range p).all fun d => d < 2 || p % d != 0

theorem length_primesBelow312 : primesBelow312.length = 64 := by decide +kernel

/-- The words of a hash value, in order. -/
def HashState.words (s : HashState) : List Word := [s.a, s.b, s.c, s.d, s.e, s.f, s.g, s.h]

/-- `w` is the first 32 bits of the fractional part of the `n`-th root of `p`: with the integer part `m` before it, it
is that root times 2^32, rounded down. -/
def IsRootFraction (n p m : Nat) (w : Word) : Prop :=
  (m * 2 ^ 32 + w.toNat) ^ n ≤ p * 2 ^ (n * 32) ∧ p * 2 ^ (n * 32) < (m * 2 ^ 32 + w.toNat + 1) ^ n

theorem length_roundConstants : roundConstants.length = 64 := rfl

/-- R162: the square root of 19, the last of the eight primes, is below 5. -/
theorem initialHash_squareRoots :
    ∀ x ∈ primesBelow312.zip initialHash.words, ∃ m < 5, IsRootFraction 2 x.1 m x.2 := by
  unfold IsRootFraction
  decide +kernel

/-- R163: the cube root of 311, the last of the 64 primes, is below 7. -/
theorem roundConstants_cubeRoots :
    ∀ x ∈ primesBelow312.zip roundConstants, ∃ m < 7, IsRootFraction 3 x.1 m x.2 := by
  unfold IsRootFraction
  decide +kernel

/-! ### Functions (R164) -/

/-- Bit `i` of ROTR^n. -/
theorem getLsbD_rotateRight_word (x : Word) {n i : Nat} (hn : n < 32) (hi : i < 32) :
    (x.rotateRight n).getLsbD i = x.getLsbD ((i + n) % 32) := by
  rw [BitVec.getLsbD_rotateRight, Nat.mod_eq_of_lt hn]
  by_cases hin : i < 32 - n
  · rw [decide_eq_true hin, cond_true, Nat.mod_eq_of_lt (by omega), Nat.add_comm]
  · have wraps : (i + n) % 32 = i - (32 - n) := by omega
    rw [decide_eq_false hin, cond_false, wraps, decide_eq_true hi, Bool.true_and]

/-- The bits of a XOR of rotations are the XORs of the rotated bits. -/
theorem getLsbD_xorRotations (x : Word) {ns : List Nat} (hns : ∀ n ∈ ns, n < 32) {i : Nat} (hi : i < 32) :
    (xorRotations ns x).getLsbD i = ns.foldl (fun acc n => acc ^^ x.getLsbD ((i + n) % 32)) false := by
  suffices h : ∀ w : Word, (ns.foldl (fun acc n => acc ^^^ x.rotateRight n) w).getLsbD i =
      ns.foldl (fun acc n => acc ^^ x.getLsbD ((i + n) % 32)) (w.getLsbD i) from
    (h 0#32).trans (by rw [BitVec.getLsbD_zero])
  induction ns with
  | nil => exact fun _ => rfl
  | cons n ns ih =>
    obtain ⟨hn, hrest⟩ := List.forall_mem_cons.mp hns
    intro w
    rw [List.foldl_cons, ih hrest, BitVec.getLsbD_xor, getLsbD_rotateRight_word x hn hi, List.foldl_cons]

theorem getLsbD_xorRotations_three (x : Word) {n m k i : Nat} (h : n < 32 ∧ m < 32 ∧ k < 32) (hi : i < 32) :
    (xorRotations [n, m, k] x).getLsbD i =
      (x.getLsbD ((i + n) % 32) ^^ x.getLsbD ((i + m) % 32) ^^ x.getLsbD ((i + k) % 32)) := by
  rw [getLsbD_xorRotations x (by simpa using h) hi]
  simp only [List.foldl_cons, List.foldl_nil, Bool.false_xor, Bool.xor_assoc]

/-- The small Sigma functions: two rotations and a shift. -/
theorem getLsbD_xorRotations_shift (x : Word) {n m k i : Nat} (h : n < 32 ∧ m < 32) (hi : i < 32) :
    (xorRotations [n, m] x ^^^ (x >>> k)).getLsbD i =
      (x.getLsbD ((i + n) % 32) ^^ x.getLsbD ((i + m) % 32) ^^ x.getLsbD (i + k)) := by
  rw [BitVec.getLsbD_xor, getLsbD_xorRotations x (by simpa using h) hi, BitVec.getLsbD_ushiftRight, Nat.add_comm k]
  simp only [List.foldl_cons, List.foldl_nil, Bool.false_xor, Bool.xor_assoc]

/-- Ch chooses by the bit of `x`. -/
theorem getLsbD_shaCh (x y z : Word) {i : Nat} (hi : i < 32) :
    (shaCh x y z).getLsbD i = if x.getLsbD i then y.getLsbD i else z.getLsbD i := by
  simp only [shaCh, BitVec.getLsbD_xor, BitVec.getLsbD_and, BitVec.getLsbD_not, hi]
  cases x.getLsbD i <;> simp

/-- Maj is the bit of `x` where `y` has it too, and else that of `z`, which one of them has. -/
theorem getLsbD_shaMaj (x y z : Word) (i : Nat) :
    (shaMaj x y z).getLsbD i = if x.getLsbD i = y.getLsbD i then x.getLsbD i else z.getLsbD i := by
  simp only [shaMaj, BitVec.getLsbD_xor, BitVec.getLsbD_and]
  cases x.getLsbD i <;> cases y.getLsbD i <;> simp

/-! ### The schedule (R164) -/

/-- The new words stand before the old ones, as many as asked for. -/
theorem extendSchedule_suffix (n : Nat) (w : List Word) : (extendSchedule n w).drop n = w := by
  induction n generalizing w with
  | zero => rfl
  | succ n ih => rw [extendSchedule, ← List.drop_drop, ih, List.drop_succ_cons, List.drop_zero]

theorem length_extendSchedule (n : Nat) (w : List Word) : (extendSchedule n w).length = n + w.length := by
  induction n generalizing w with
  | zero => rw [extendSchedule, Nat.zero_add]
  | succ n ih => rw [extendSchedule, ih, List.length_cons]; omega

/-- Word `i` past the new ones is the old word `i`. -/
theorem getD_extendSchedule_add (n i : Nat) (w : List Word) : (extendSchedule n w).getD (n + i) 0 = w.getD i 0 := by
  rw [List.getD_eq_getElem?_getD, ← List.getElem?_drop, extendSchedule_suffix, List.getD_eq_getElem?_getD]

/-- Each new word is made from those behind it by the recurrence. -/
theorem getD_extendSchedule_lt {n i : Nat} (w : List Word) (hi : i < n) :
    let r := extendSchedule n w
    r.getD i 0 = smallSigma1 (r.getD (i + 2) 0) + r.getD (i + 7) 0 + smallSigma0 (r.getD (i + 15) 0) +
      r.getD (i + 16) 0 := by
  induction n generalizing w with
  | zero => exact absurd hi (Nat.not_lt_zero i)
  | succ n ih =>
    rcases Nat.lt_succ_iff_lt_or_eq.mp hi with hlt | rfl
    · exact ih _ hlt
    · have newest (k : Nat) (x : Word) : (extendSchedule i (x :: w)).getD (i + k) 0 = (x :: w).getD k 0 :=
        getD_extendSchedule_add i k _
      simp only [extendSchedule, newest, List.getD_cons_succ]
      exact newest 0 _

section
variable {b : List Word} (hb : b.length = 16)
include hb

theorem length_schedule : (schedule b).length = 64 := by
  rw [schedule, List.length_reverse, length_extendSchedule, List.length_reverse, hb]

/-- The schedule is oldest first, the list that is extended newest first. -/
theorem getD_schedule {t : Nat} (ht : t < 64) :
    (schedule b).getD t 0 = (extendSchedule 48 b.reverse).getD (63 - t) 0 := by
  have hlen : (extendSchedule 48 b.reverse).length = 64 := by
    rw [length_extendSchedule, List.length_reverse, hb]
  rw [schedule, List.getD_reverse _ (by omega), hlen]

/-- The schedule begins with the block. -/
theorem getD_schedule_block {t : Nat} (ht : t < 16) : (schedule b).getD t 0 = b.getD t 0 := by
  have hold : 63 - t = 48 + (15 - t) := by omega
  rw [getD_schedule hb (by omega), hold, getD_extendSchedule_add, List.getD_reverse _ (by omega), hb]
  congr 1
  omega

/-- It goes on by the recurrence. -/
theorem getD_schedule_recurrence {t : Nat} (h16 : 16 ≤ t) (ht : t < 64) :
    (schedule b).getD t 0 = smallSigma1 ((schedule b).getD (t - 2) 0) + (schedule b).getD (t - 7) 0 +
      smallSigma0 ((schedule b).getD (t - 15) 0) + (schedule b).getD (t - 16) 0 := by
  have back {k : Nat} (hk : k ≤ 16) :
      (schedule b).getD (t - k) 0 = (extendSchedule 48 b.reverse).getD (63 - t + k) 0 := by
    rw [getD_schedule hb (by omega)]
    congr 1
    omega
  rw [getD_schedule hb ht, back (by decide), back (by decide), back (by decide), back (by decide)]
  exact getD_extendSchedule_lt _ (by omega)

end

/-! ### Rounds, chaining and digest (R164) -/

/-- A fold over one element more applies the function once more. -/
theorem foldl_take_succ {α β : Type} (f : β → α → β) (x : β) {l : List α} {i : Nat} {a : α}
    (h : l[i]? = some a) :
    (l.take (i + 1)).foldl f x = f ((l.take i).foldl f x) a := by
  rw [List.take_add_one, h, List.foldl_append]
  rfl

/-- The rounds are a fold over the pairs of a constant and a schedule word. -/
theorem shaRounds_eq_foldl (s : HashState) (ks ws : List Word) :
    shaRounds s ks ws = (ks.zip ws).foldl (fun s p => shaRound s p.1 p.2) s := by
  induction ks generalizing s ws with
  | nil => rfl
  | cons k ks ih => cases ws with
    | nil => rfl
    | cons w ws => exact ih (shaRound s k w) ws

/-- The working variables after the first `t` rounds of a block. -/
def roundState (hash : HashState) (b : List Word) (t : Nat) : HashState :=
  ((roundConstants.zip (schedule b)).take t).foldl (fun s p => shaRound s p.1 p.2) hash

theorem roundState_succ (hash : HashState) {b : List Word} (hb : b.length = 16) {t : Nat} (ht : t < 64) :
    roundState hash b (t + 1) =
      shaRound (roundState hash b t) (roundConstants.getD t 0) ((schedule b).getD t 0) := by
  have inputs : (roundConstants.zip (schedule b))[t]? = some (roundConstants.getD t 0, (schedule b).getD t 0) := by
    have hk : t < roundConstants.length := by rwa [length_roundConstants]
    have hw : t < (schedule b).length := by rwa [length_schedule hb]
    rw [List.getElem?_zip_eq_some]
    simp only [List.getD_eq_getElem?_getD, List.getElem?_eq_getElem hk, List.getElem?_eq_getElem hw, Option.getD_some,
      and_self]
  rw [roundState, foldl_take_succ _ hash inputs, roundState]

/-- The hash value after a block is the sum with the working variables after all 64 rounds. -/
theorem compress_eq (hash : HashState) (b : List Word) : compress hash b = hash.add (roundState hash b 64) := by
  have all : (roundConstants.zip (schedule b)).length ≤ 64 := by
    rw [List.length_zip, length_roundConstants]
    exact Nat.min_le_left _ _
  rw [compress, shaRounds_eq_foldl, roundState, List.take_of_length_le all]

/-- The hash value after the first `i` blocks of a message. -/
def hashAfter (m : List Byte) (i : Nat) : HashState := ((messageBlocks m).take i).foldl compress initialHash

theorem sha256_eq (m : List Byte) : sha256 m = (hashAfter m (messageBlocks m).length).digest := by
  rw [sha256, hashAfter, List.take_length]

theorem HashState.digest_eq (s : HashState) :
    s.digest = be32 s.a ++ be32 s.b ++ be32 s.c ++ be32 s.d ++ be32 s.e ++ be32 s.f ++ be32 s.g ++ be32 s.h := by
  simp [HashState.digest]

theorem sha256_abc : (sha256 (ascii ['a', 'b', 'c'])).foldl (fun acc x => acc * 256 + x.toNat) 0 =
    0xba7816bf8f01cfea414140de5dae2223b00361a396177a9cb410ff61f20015ad := by decide +kernel

theorem sha256_nil : (sha256 []).foldl (fun acc x => acc * 256 + x.toNat) 0 =
    0xe3b0c44298fc1c149afbf4c8996fb92427ae41e4649b934ca495991b7852b855 := by decide +kernel

/-- Settles O48: the constants and the two digests by evaluation, the rest by the laws of each stage. -/
theorem sha256FollowsComputation : Obligations.Sha256FollowsComputation := by
  refine ⟨⟨length_primesBelow312, length_roundConstants⟩, fun x hx => ?_, fun x hx => ?_, by decide, by decide,
    fun x y z i hi => ⟨getLsbD_shaCh x y z hi, getLsbD_shaMaj x y z i, ?_, ?_, ?_, ?_⟩,
    fun b hb => ⟨length_schedule hb, fun t => getD_schedule_block hb, fun t => getD_schedule_recurrence hb⟩,
    fun hash b hb => ⟨roundState hash b, rfl, fun t => roundState_succ hash hb, ?_⟩,
    fun m => ⟨hashAfter m, rfl, fun i b => foldl_take_succ _ _, ?_⟩, fun _ => rfl, sha256_abc, sha256_nil⟩
  · obtain ⟨m, -, hm⟩ := initialHash_squareRoots x hx
    exact ⟨m, hm⟩
  · obtain ⟨m, -, hm⟩ := roundConstants_cubeRoots x hx
    exact ⟨m, hm⟩
  · exact getLsbD_xorRotations_three x (by decide) hi
  · exact getLsbD_xorRotations_three x (by decide) hi
  · exact getLsbD_xorRotations_shift x (by decide) hi
  · exact getLsbD_xorRotations_shift x (by decide) hi
  · rw [compress_eq]
    exact ⟨rfl, rfl, rfl, rfl, rfl, rfl, rfl, rfl⟩
  · rw [sha256_eq, HashState.digest_eq]

end Sys2Proof.Machine
end

section
/-!
# HMAC, the Annex A.4 string and KDF_RESSTAR (43_kdf.md R165 to R172)
-/
namespace Sys2Proof.Machine

/-! ### HMAC (R169) -/

@[simp] theorem length_digest (s : HashState) : s.digest.length = 32 := rfl

@[simp] theorem length_sha256 (m : List Byte) : (sha256 m).length = 32 := rfl

@[simp] theorem length_hmac (key msg : List Byte) : (hmac key msg).length = 32 := rfl

/-- A key of at most 64 bytes is padded with zeros and not hashed. -/
theorem hmacKey_of_le {key : List Byte} (h : key.length ≤ 64) :
    hmacKey key = key ++ List.replicate (64 - key.length) 0 := by
  simp only [hmacKey, if_neg (Nat.not_lt.mpr h)]
  rfl

/-- The number of blocks of a message: 9 bytes more than the message, rounded up. -/
theorem length_messageBlocks_eq_div (m : List Byte) : (messageBlocks m).length = (m.length + 72) / 64 := by
  rw [length_messageBlocks, length_pad]
  unfold padZeros
  omega

/-- Settles O50: a key pad takes one block, the string two more and an inner digest one more. -/
theorem hmacBlocks : Obligations.HmacBlocks := by
  intro key s hkey hmin hmax
  have padded : hmacKey key = key ++ List.replicate 32 0 := by rw [hmacKey_of_le (by omega), hkey]
  refine ⟨padded, ?_, ?_, ?_⟩
  · rw [hmac, padded]
    rfl
  · rw [length_messageBlocks_eq_div, List.length_append, List.length_map, List.length_append, List.length_replicate]
    omega
  · rw [length_messageBlocks_eq_div, List.length_append, List.length_map, List.length_append, List.length_replicate,
      length_sha256]
    omega

/-! ### The Annex A.4 string (R165 to R167) -/

@[simp] theorem length_servingNetwork (mcc mnc : Nat) : (servingNetwork mcc mnc).length = 32 := rfl

/-- The high byte of a length below 256 is 0. -/
theorem u16be_of_lt {n : Nat} (h : n < 256) : u16be n = [0, BitVec.ofNat 8 n] := by
  rw [u16be, Nat.div_eq_of_lt h]
  rfl

theorem kdfString_eq (mcc mnc : Nat) {rand res : List Byte} (hrand : rand.length = 16) (hres : res.length < 256) :
    kdfString mcc mnc rand res = [0x6B] ++ servingNetwork mcc mnc ++ [0x00, 0x20] ++ rand ++ [0x00, 0x10] ++ res ++
      [0x00, BitVec.ofNat 8 res.length] := by
  rw [kdfString, length_servingNetwork, hrand, u16be_of_lt hres]
  rfl

/-- Settles O45: the parts of S, and the sum of their lengths. -/
theorem kdfStringLayout : Obligations.KdfStringLayout := by
  intro mcc mnc rand res _ _ hrand _ hres
  have layout := kdfString_eq mcc mnc hrand (hres.trans_lt (by decide))
  refine ⟨rfl, length_servingNetwork mcc mnc, layout, ?_⟩
  simp only [layout, List.length_append, length_servingNetwork, hrand, List.length_cons, List.length_nil]
  omega

/-! ### RESSTAR_FN (R171) -/

/-- RESSTAR_FN is what the HMAC output has after its first 16 bytes. -/
theorem toList_resstarFn (mcc mnc : BitVec 16) (rand ck ik : ByteStr 16) (res : List Byte) :
    (resstarFn mcc mnc rand res ck ik).toList =
      (kdfOutput mcc.toNat mnc.toNat rand.toList res ck.toList ik.toList).drop 16 := by
  apply List.ext_getElem
  · simp [kdfOutput]
  · intro j hj _
    have hin : 16 + j < (kdfOutput mcc.toNat mnc.toNat rand.toList res ck.toList ik.toList).length := by
      rw [Vector.length_toList] at hj
      rw [kdfOutput, length_hmac]
      omega
    simp [resstarFn, hin]

/-- Settles O49: RESSTAR_FN reads the second half of the HMAC output. -/
theorem resstarIsLastSixteenBytes : Obligations.ResstarIsLastSixteenBytes := fun mcc mnc rand ck ik res =>
  ⟨length_hmac _ _, toList_resstarFn mcc mnc rand ck ik res⟩

/-! ### KDF_RESSTAR (R172) -/

/-- KDF_RESSTAR completes with the result of its pseudocode. -/
theorem exec_kdfResstar_of_run {s : State} {r : CmdResult} (h : kdfResstarRun s.engine = r) :
    exec .kdfResstar s = .next { s with engine := r.engine.report r.code } := h ▸ rfl

/-- The inputs of KDF_RESSTAR are loaded. -/
def Engine.kdfLoaded (e : Engine) : Bool := e.rand.loaded && e.res.loaded && e.ck.loaded && e.ik.loaded

theorem Engine.kdfLoaded_iff (e : Engine) :
    e.kdfLoaded = true ↔ e.rand.loaded = true ∧ e.res.loaded = true ∧ e.ck.loaded = true ∧ e.ik.loaded = true := by
  simp [Engine.kdfLoaded, and_assoc]

/-- The ends of KDF_RESSTAR, each under the condition that chooses it. -/
theorem kdfResstarRun_ends (e : Engine) :
    let n := e.resLen.toNat
    (e.kdfLoaded = false → kdfResstarRun e = .raise e.clearResstar .missingInput) ∧
    (e.kdfLoaded = true → (n < 1 ∨ 16 < n) → kdfResstarRun e = .raise e.clearResstar .badResLen) ∧
    (e.kdfLoaded = true → 1 ≤ n ∧ n ≤ 16 → e.plmnBad = true →
      kdfResstarRun e = .raise e.clearResstar .badPlmn) ∧
    (e.kdfLoaded = true → 1 ≤ n ∧ n ≤ 16 → e.plmnBad = false →
      kdfResstarRun e = .ok e.clearResstar.deriveResstar) := by
  rcases kdfResstarRun_cases e with ⟨hl, hr⟩ | ⟨hl, hn, hr⟩ | ⟨hl, hn, hp, hr⟩ | ⟨hl, hn, hp, hr⟩ <;>
    rw [← Engine.kdfLoaded] at hl <;> simp only [hl, reduceCtorEq, false_implies, true_implies, true_and]
  · exact ⟨hr, trivial⟩
  · exact ⟨fun _ => hr, fun hn' => by omega, fun hn' => by omega⟩
  · exact ⟨fun hn' => by omega, fun _ _ => hr, fun _ hp' => absurd (hp.symm.trans hp') nofun⟩
  · exact ⟨fun hn' => by omega, fun _ hp' => absurd (hp.symm.trans hp') nofun, fun _ _ => hr⟩

/-- Settles O33: each end of KDF_RESSTAR is a completion; the clears come first and the derivation overwrites them. -/
theorem kdfResstarResult : Obligations.KdfResstarResult := by
  intro s e n ready fails
  obtain ⟨unloaded, badLen, badPlmn, derived⟩ := kdfResstarRun_ends e
  have loaded (h : ready) : e.kdfLoaded = true := e.kdfLoaded_iff.mpr h
  refine ⟨rfl, fun h => ?_, fun h hn => ?_, fun h h1 h16 hp => ?_, fun h h1 h16 hmcc hmnc => ?_⟩
  · exact exec_kdfResstar_of_run (unloaded (Bool.eq_false_iff.mpr (h ∘ e.kdfLoaded_iff.mp)))
  · exact exec_kdfResstar_of_run (badLen (loaded h) hn)
  · exact exec_kdfResstar_of_run (badPlmn (loaded h) ⟨h1, h16⟩ (e.plmnBad_iff.mpr hp))
  · have legal : e.plmnBad = false := by
      rw [Bool.eq_false_iff, ne_eq, e.plmnBad_iff]
      omega
    exact exec_kdfResstar_of_run (derived (loaded h) ⟨h1, h16⟩ legal)

/-- What decides the end of KDF_RESSTAR and the value it derives are the same in both engine states. -/
structure Engine.SameKdfInputs (e e' : Engine) : Prop where
  loaded : e'.kdfLoaded = e.kdfLoaded
  resLen : e'.resLen = e.resLen
  plmnBad : e'.plmnBad = e.plmnBad
  derived : e'.deriveResstar.resstar = e.deriveResstar.resstar

/-- Two runs that agree on the deciding conditions take the same end, with the same RES\*. -/
theorem Engine.SameKdfInputs.kdfResstarRun {e e' : Engine} (h : e.SameKdfInputs e') :
    (kdfResstarRun e').engine.resstar = (kdfResstarRun e).engine.resstar ∧
    (kdfResstarRun e').engine.resstarValid = (kdfResstarRun e).engine.resstarValid ∧
    (kdfResstarRun e').code = (kdfResstarRun e).code := by
  obtain ⟨unloaded, badLen, badPlmn, derived⟩ := kdfResstarRun_ends e'
  simp only [h.loaded, h.resLen, h.plmnBad] at unloaded badLen badPlmn derived
  rcases kdfResstarRun_cases e with ⟨hl, hr⟩ | ⟨hl, hn, hr⟩ | ⟨hl, hn, hp, hr⟩ | ⟨hl, hn, hp, hr⟩
  · rw [hr, unloaded hl]
    exact ⟨rfl, rfl, rfl⟩
  · rw [hr, badLen hl hn]
    exact ⟨rfl, rfl, rfl⟩
  · rw [hr, badPlmn hl hn hp]
    exact ⟨rfl, rfl, rfl⟩
  · rw [hr, derived hl hn hp]
    exact ⟨h.derived, rfl, rfl⟩

/-- `B[0..k)` is given by its bytes. -/
theorem take_toList_congr {n k : Nat} {a b : ByteStr n} (h : ∀ j < k, byteAt a j = byteAt b j) :
    a.toList.take k = b.toList.take k := by
  apply List.ext_getElem
  · simp
  · intro j hj _
    obtain ⟨hjk, hjn⟩ : j < k ∧ j < n := by simpa using hj
    simpa [byteAt_of_lt, hjn] using h j hjk

/-- Settles O34: `RES[0..RES_LEN)` is the same in both states, and RESSTAR_FN reads no more of RES. -/
theorem kdfReadsOnlyItsInputs : Obligations.KdfReadsOnlyItsInputs := by
  intro s s' t t' hrand hck hik hmask hlen hres hmcc hmnc ht ht'
  have hloaded : s'.engine.res.loaded = s.engine.res.loaded := congrArg (· == BitVec.allOnes 4) hmask
  have inputs : s.engine.SameKdfInputs s'.engine := by
    refine ⟨?_, hlen, ?_, ?_⟩
    · simp only [Engine.kdfLoaded, hrand, hloaded, hck, hik]
    · simp only [Engine.plmnBad, hmcc, hmnc]
    · simp only [Engine.deriveResstar_resstar, hrand, hck, hik, hlen, hmcc, hmnc, take_toList_congr hres]
  rw [complete_next ht, complete_next ht']
  exact inputs.kdfResstarRun

end Sys2Proof.Machine
end

section
/-!
# Commands: accept, completion and the phase (44_maintenance.md R200, R201, R203, R205; 60_exceptions.md R220, R226;
70_reset_and_hazards.md R261, R271, R275)
-/
namespace Sys2Proof.Machine

/-! ### Accept (R200) -/

theorem Engine.isBusy_iff (e : Engine) : e.isBusy = true ↔ ∃ p n, e.phase = .busy p n := by
  unfold Engine.isBusy
  split
  case h_1 hp => simp [hp]
  case h_2 p n hp => simp [hp]

/-- A WR to CMD in IDLE is the accept of its word and the advance. -/
theorem exec_wr_cmd_accepts {s : State} (hp : s.engine.phase = .idle) (v : Word) :
    exec (.wr 0x0C v) s = .next (s.accept v).advance := by
  have wrote : exec (.wr 0x0C v) s = .next (s.writeReg .cmd v).advance := exec_wr rfl regAt_cmd v s
  rw [wrote, State.writeReg_of_idle (r := .cmd) nofun nofun hp, if_pos rfl]

/-- A WR to CMD while BUSY sets WERR and advances, and nothing else. -/
theorem exec_wr_cmd_dropped {s : State} {p : Word} {n : Nat} (hp : s.engine.phase = .busy p n) (v : Word) :
    exec (.wr 0x0C v) s = .next { s with pc := s.pc + 1, engine := { s.engine with werr := true } } := by
  have wrote : exec (.wr 0x0C v) s = .next (s.writeReg .cmd v).advance := exec_wr rfl regAt_cmd v s
  rw [wrote, State.writeReg_of_busy (r := .cmd) nofun nofun hp]
  rfl

/-- An accept clears DONE, so `irq` is 0 whatever IRQ_EN is (60_exceptions.md R227). -/
theorem Engine.accept_irq (e : Engine) (v : Word) (n : Nat) : (e.accept v n).irq = false := Bool.and_false _

/-- Settles O30: in IDLE the write is an accept, with one draw for its delay, and while BUSY it is dropped. -/
theorem commandWriteAccepts : Obligations.CommandWriteAccepts := by
  intro s v
  refine ⟨fun hp => ?_, fun hbusy => ?_⟩
  · have accepts := exec_wr_cmd_accepts hp v
    refine ⟨_, _, accepts, fun t ht => ?_⟩
    cases accepts.symm.trans ht
    exact ⟨s.engine.accept_irq v _, rfl⟩
  · obtain ⟨p, n, hp⟩ := s.engine.isBusy_iff.mp hbusy
    exact exec_wr_cmd_dropped hp v

/-! ### The report (R201, R220, R226) -/

theorem ErrCode.code_le (c : ErrCode) : c.code.toNat ≤ 7 := by cases c <;> decide

theorem ErrCode.code_eq_zero_iff (c : ErrCode) : c.code = 0 ↔ c = .none := by cases c <;> decide

/-- Settles O31: the meaning of a command word is a completion, and what is claimed is its report. -/
theorem everyCommandCompletesAndReports : Obligations.EveryCommandCompletesAndReports := by
  intro c s hc
  obtain ⟨r, hr⟩ := exec_command hc s
  exact ⟨r.engine.report r.code, hr, rfl, rfl, bne_iff_ne, r.code.code_le, r.code.code_eq_zero_iff.symm⟩

/-! ### The write set (R203)

SQN_VALID and MAC_OK are written by the commands that have SQN in their write set, RESSTAR_VALID by the RES\* writers. -/

/-- The engine `x` on the write set of the command `c`, and `e` outside it. -/
def Engine.overwrite (c : Instr) (e x : Engine) : Engine :=
  { e with
    k := if .k ∈ fieldsWritten c then x.k else e.k
    opc := if .opc ∈ fieldsWritten c then x.opc else e.opc
    rand := if .rand ∈ fieldsWritten c then x.rand else e.rand
    autn := if .autn ∈ fieldsWritten c then x.autn else e.autn
    res := if .res ∈ fieldsWritten c then x.res else e.res
    ck := if .ck ∈ fieldsWritten c then x.ck else e.ck
    ik := if .ik ∈ fieldsWritten c then x.ik else e.ik
    resstar := if .resstar ∈ fieldsWritten c then x.resstar else e.resstar
    sqn := if .sqn ∈ fieldsWritten c then x.sqn else e.sqn
    maca := if .maca ∈ fieldsWritten c then x.maca else e.maca
    bcdText := if .bcdText ∈ fieldsWritten c then x.bcdText else e.bcdText
    bcdPacked := if .bcdPacked ∈ fieldsWritten c then x.bcdPacked else e.bcdPacked
    resLen := if resLenWritten c then x.resLen else e.resLen
    resstarValid := if writesResstar c then x.resstarValid else e.resstarValid
    sqnValid := if .sqn ∈ fieldsWritten c then x.sqnValid else e.sqnValid
    macOk := if .sqn ∈ fieldsWritten c then x.macOk else e.macOk }

theorem Engine.overwrite_field {c : Instr} {f : Field} (hf : f ∉ fieldsWritten c) (e x : Engine) :
    (e.overwrite c x).bytesOf f = e.bytesOf f ∧ ∀ w, (e.overwrite c x).maskBit f w = e.maskBit f w := by
  cases f <;> simp only [Engine.overwrite, Engine.bytesOf, Engine.maskBit, if_neg hf, implies_true, and_self]

section
variable (e : Engine)

theorem kdfResstarRun_writeSet : (kdfResstarRun e).engine = e.overwrite .kdfResstar (kdfResstarRun e).engine := by
  rcases kdfResstarRun_cases e with ⟨_, hr⟩ | ⟨_, _, hr⟩ | ⟨_, _, _, hr⟩ | ⟨_, _, _, hr⟩ <;> rw [hr] <;> rfl

/-- The two AKA commands have one write set. -/
theorem akaCore_writeSet (vectors : VectorsPort) (f1 : F1Port) (auth : Bool) :
    (akaCore vectors f1 auth e).engine = e.overwrite .akaVerify (akaCore vectors f1 auth e).engine := by
  rcases akaCore_cases vectors f1 auth e with
    ⟨_, hr⟩ | ⟨_, _, _, hr⟩ | ⟨_, _, _, hr⟩ | ⟨_, _, _, _, hr⟩ | ⟨_, _, _, _, hr⟩ <;> rw [hr]
  case inr.inr.inr.inr => cases auth <;> rfl
  all_goals rfl

theorem bcdEncRun_writeSet : (bcdEncRun e).engine = e.overwrite .bcdEnc (bcdEncRun e).engine := by
  rcases bcdEncRun_cases e with ⟨_, hr⟩ | ⟨_, _, hr⟩ | ⟨_, _, _, hr⟩ | ⟨_, _, _, hr⟩ <;> rw [hr] <;> rfl

theorem bcdDecRun_writeSet : (bcdDecRun e).engine = e.overwrite .bcdDec (bcdDecRun e).engine := by
  rcases bcdDecRun_cases e with ⟨_, hr⟩ | ⟨_, _, hr⟩ | ⟨_, _, hr⟩ <;> rw [hr] <;> rfl

end

/-- A completion writes inside the command's write set, reports, and leaves the host alone. -/
theorem exec_command_writeSet {c : Instr} (hc : c.isCmdWord = true) (s : State) :
    ∃ (x : Engine) (code : ErrCode), exec c s = .next { s with engine := (s.engine.overwrite c x).report code } := by
  have completes {run : Engine → CmdResult}
      (hrun : (run s.engine).engine = s.engine.overwrite c (run s.engine).engine) :
      ∃ (x : Engine) (code : ErrCode),
        complete (run s.engine) s = .next { s with engine := (s.engine.overwrite c x).report code } :=
    ⟨(run s.engine).engine, (run s.engine).code, by rw [← hrun]; rfl⟩
  cases c with
  | kdfResstar => exact completes (kdfResstarRun_writeSet s.engine)
  | akaVerify | akaAuth => exact completes (akaCore_writeSet s.engine _ _ _)
  | bcdEnc => exact completes (bcdEncRun_writeSet s.engine)
  | bcdDec => exact completes (bcdDecRun_writeSet s.engine)
  | zeroize => exact completes (run := zeroizeRun) rfl
  | illegal w => exact completes (run := illegalRun) rfl
  | rd | wr | poll => cases hc

/-- The commands that have SQN in their write set are the AKA commands and ZEROIZE. -/
theorem sqn_not_mem_fieldsWritten {c : Instr} (hverify : c ≠ .akaVerify) (hauth : c ≠ .akaAuth)
    (hzeroize : c ≠ .zeroize) : .sqn ∉ fieldsWritten c := by
  cases c with
  | akaVerify => exact absurd rfl hverify
  | akaAuth => exact absurd rfl hauth
  | zeroize => exact absurd rfl hzeroize
  | kdfResstar | bcdEnc | bcdDec | illegal | rd | wr | poll => simp [fieldsWritten]

/-- Settles O32: outside the report the engine after a completion is the old one but for the write set. -/
theorem commandWritesOnlyItsWriteSet : Obligations.CommandWritesOnlyItsWriteSet := by
  intro c s t hc ht
  obtain ⟨x, code, hx⟩ := exec_command_writeSet hc s
  cases hx.symm.trans ht
  refine ⟨rfl, rfl, rfl, rfl, rfl, rfl, rfl, rfl, fun hlen => ?_, fun f hf => s.engine.overwrite_field hf x,
    fun hstar => ?_, fun hverify hauth hzeroize => ?_⟩
  · simp [Engine.overwrite, hlen]
  · simp [Engine.overwrite, hstar]
  · simp [Engine.overwrite, sqn_not_mem_fieldsWritten hverify hauth hzeroize]

/-! ### ZEROIZE (R205) -/

/-- ZEROIZE leaves every field zero with its mask clear. -/
theorem zeroizeRun_zeroed (e : Engine) (f : Field) :
    (zeroizeRun e).engine.bytesOf f = List.replicate (fieldBytes f) 0 ∧
      ∀ w, (zeroizeRun e).engine.maskBit f w = false := by
  cases f with
  | resstar | sqn | maca => exact ⟨toList_zeroBytes _, fun _ => rfl⟩
  | k | opc | rand | autn | res | ck | ik | bcdText | bcdPacked =>
    exact ⟨toList_zeroBytes _, fun _ => BitVec.getLsbD_zero⟩

/-- Settles O43: the masks, and so LOADED, are those of the reset state. -/
theorem zeroizeResult : Obligations.ZeroizeResult := by
  intro s
  have unloaded : loadedWord Engine.reset = 0 := by decide
  exact ⟨_, rfl, rfl, zeroizeRun_zeroed s.engine, unloaded, rfl, rfl⟩

/-! ### The phase (R200, R201, R261, R271, R275) -/

/-- Settles O9: with `rst` deasserted the move is the live one, and a due completion comes before any transaction. -/
theorem dueCompletionRunsPending : Obligations.DueCompletionRunsPending := by
  intro s p hrst hp
  simp only [step, nextMove_live hrst, liveMove, hp]

/-- What a register write does to the phase: a soft reset ends it, an accept begins it, no other write changes it. -/
theorem State.writeReg_phase (s : State) (r : Reg) (v : Word) :
    (s.writeReg r v).engine.phase = s.engine.phase ∨
    (r = .ctrl ∧ v[1] = true ∧ (s.writeReg r v).engine.phase = .idle) ∨
    (r = .cmd ∧ s.engine.phase = .idle ∧ ∃ n, (s.writeReg r v).engine.phase = .busy v n) := by
  rcases s.writeReg_cases r v with ⟨hc, hv, hw⟩ | ⟨_, _, hw⟩ | ⟨_, hw⟩ | ⟨_, _, _, _, hw⟩ | ⟨_, _, _, _, hw⟩ |
    ⟨hcmd, hp, hw⟩ | ⟨_, _, _, _, hw⟩ <;> rw [hw]
  case inl => exact .inr (.inl ⟨hc, hv, rfl⟩)
  case inr.inr.inr.inr.inr.inl => exact .inr (.inr ⟨hcmd, hp, _, rfl⟩)
  case inr.inr.inr.inr.inr.inr => exact .inl (s.engine.storeReg_phase r v)
  all_goals exact .inl rfl

/-- A host transaction keeps the phase, unless it is a soft reset or a WR to CMD in IDLE. -/
theorem exec_tx_phase {i : Instr} (hi : i.isCmdWord = false) {s t : State} (h : exec i s = .next t) :
    t.engine.phase = s.engine.phase ∨
    (∃ v, i = .wr 0x08 v ∧ v[1] = true ∧ t.engine.phase = .idle) ∨
    (s.engine.phase = .idle ∧ ∃ v n, i = .wr 0x0C v ∧ t.engine.phase = .busy v n) := by
  obtain ⟨-, -, -, ⟨-, he⟩ | ⟨off, v, rfl, ha, -, he⟩⟩ := exec_tx_cases hi h <;> rw [he]
  · exact .inl rfl
  · rcases s.writeReg_phase (regAt off) v with hw | ⟨hc, hv, hw⟩ | ⟨hcmd, hp, n, hw⟩
    · exact .inl hw
    · obtain rfl := (regAt_eq_ctrl ha).mp hc
      exact .inr (.inl ⟨v, rfl, hv, hw⟩)
    · obtain rfl := (regAt_eq_cmd ha).mp hcmd
      exact .inr (.inr ⟨hp, v, n, rfl, hw⟩)

theorem State.passSlot_phase_idle {s : State} (hp : s.engine.phase = .idle) : s.passSlot.engine.phase = .idle := by
  simp only [State.passSlot, hp]

theorem State.passSlot_phase_busy {s : State} {p : Word} {n : Nat} (hp : s.engine.phase = .busy p n) :
    s.passSlot.engine.phase = .busy p (n - 1) := by
  simp only [State.passSlot, hp]

/-- What a step from IDLE does to the phase: nothing, or a WR to CMD makes its word the pending one. -/
theorem step_phase_of_idle {s t : State} (hp : s.engine.phase = .idle) (h : step s = .next t) :
    t.engine.phase = .idle ∨ ∃ v n u, nextMove s = .run (.wr 0x0C v) u ∧ t.engine.phase = .busy v n := by
  rcases step_cases h with ⟨l, -, -, rfl⟩ | ⟨p, n, hbusy, -⟩ | ⟨w, i, -, -, hd, hm, he⟩ | ⟨-, -, -, rfl⟩
  · exact .inl rfl
  · cases hp.symm.trans hbusy
  · have slot : (State.passSlot { s with rst := s.rst.tail }).engine.phase = .idle := State.passSlot_phase_idle hp
    rcases exec_tx_phase (decodeTx_isTx hd) he with ht | ⟨v, -, -, ht⟩ | ⟨-, v, n, rfl, ht⟩
    · exact .inl (ht.trans slot)
    · exact .inl ht
    · exact .inr ⟨v, n, _, hm, ht⟩
  · exact .inl hp

/-- What a step from BUSY does to the phase: a completion, a reset by `rst` or a soft reset ends it, any other step
keeps the pending word. -/
theorem step_phase_of_busy {s t : State} {p : Word} {n : Nat} (hp : s.engine.phase = .busy p n)
    (h : step s = .next t) :
    (t.engine.phase = .idle ∧ ((∃ u, nextMove s = .run (decodeCmd p) u) ∨ (∃ u, nextMove s = .hardReset u) ∨
      ∃ u v, nextMove s = .run (.wr 0x08 v) u ∧ v[1] = true)) ∨
    t.engine.phase = .busy p (n - 1) := by
  rcases step_cases h with ⟨l, -, hm, rfl⟩ | ⟨q, m, hq, -, hm, he⟩ | ⟨w, i, -, -, hd, hm, he⟩ | ⟨hidle, -⟩
  · exact .inl ⟨rfl, .inr (.inl ⟨_, hm⟩)⟩
  · cases hp.symm.trans hq
    obtain ⟨r, hr⟩ := exec_command (decodeCmd_isCmdWord p) { s with rst := s.rst.tail }
    cases hr.symm.trans he
    exact .inl ⟨rfl, .inl ⟨_, hm⟩⟩
  · have slot : (State.passSlot { s with rst := s.rst.tail }).engine.phase = .busy p (n - 1) :=
      State.passSlot_phase_busy hp
    rcases exec_tx_phase (decodeTx_isTx hd) he with ht | ⟨v, rfl, hv, ht⟩ | ⟨hidle, -⟩
    · exact .inr (ht.trans slot)
    · exact .inl ⟨ht, .inr (.inr ⟨_, v, hm, hv⟩)⟩
    · cases slot.symm.trans hidle
  · cases hp.symm.trans hidle

/-- Settles O56: from each phase the change names the move that made it. -/
theorem phaseChangesOnlyByAcceptCompletionReset : Obligations.PhaseChangesOnlyByAcceptCompletionReset := by
  intro s t h
  refine ⟨fun p n hidle hbusy => ?_, fun p n hbusy hidle => ?_, fun p n q m hbusy hbusy' => ?_⟩
  · rcases step_phase_of_idle hidle h with ht | ⟨v, k, u, hm, ht⟩ <;> cases hbusy.symm.trans ht
    exact ⟨u, hm⟩
  · rcases step_phase_of_busy hbusy h with ⟨-, hm⟩ | ht
    · exact hm
    · cases hidle.symm.trans ht
  · rcases step_phase_of_busy hbusy h with ⟨ht, -⟩ | ht <;> cases hbusy'.symm.trans ht
    rfl

end Sys2Proof.Machine
end

section
/-!
# The interrupt output (60_exceptions.md R227)

`irq` depends on IRQ_EN and DONE only. A completion sets DONE and keeps IRQ_EN, a slot that passes keeps both, and of
the register writes those to CTRL and STATUS and the accept are the ones that change either.
-/
namespace Sys2Proof.Machine

/-- IRQ_EN and DONE have no storage outside CTRL and STATUS, so no other register write moves `irq`. -/
theorem Engine.storeReg_irq (e : Engine) (r : Reg) (v : Word) : (e.storeReg r v).irq = e.irq := by
  cases r with
  | data f w => cases f <;> rfl
  | _ => rfl

/-- The report sets DONE, so `irq` is then IRQ_EN (R201). -/
theorem Engine.report_irq (e : Engine) (c : ErrCode) : (e.report c).irq = e.irqEn := Bool.and_true _

/-- Clearing DONE is what a STATUS write can do to `irq` (R228). -/
theorem Engine.statusWrite_irq (e : Engine) (v : Word) : (e.statusWrite v).irq = (e.irq && !v[1]) :=
  (Bool.and_assoc ..).symm

/-- A slot that passes keeps DONE and `irq` (R275). -/
theorem State.passSlot_done_irq (s : State) :
    s.passSlot.engine.done = s.engine.done ∧ s.passSlot.engine.irq = s.engine.irq := by
  obtain ⟨ph, hs, -⟩ := s.passSlot_eq
  rw [hs]
  exact ⟨rfl, rfl⟩

/-- A slot that passes does not end the phase (R275). -/
theorem State.phase_idle_of_passSlot {s : State} (h : s.passSlot.engine.phase = .idle) : s.engine.phase = .idle := by
  cases hp : s.engine.phase with
  | idle => rfl
  | busy p n => cases (State.passSlot_phase_busy hp).symm.trans h

/-- What a register write does to `irq`: CTRL resets the engine or sets IRQ_EN, STATUS can clear DONE, an accept clears
DONE, and no other write changes `irq`. -/
theorem State.writeReg_irq (s : State) (r : Reg) (v : Word) :
    (s.writeReg r v).engine.irq = s.engine.irq ∨
    (r = .ctrl ∧ (s.writeReg r v).engine.irq = (!v[1] && (v[0] && s.engine.done))) ∨
    (r = .status ∧ (s.writeReg r v).engine.irq = (s.engine.irq && !v[1])) ∨
    (r = .cmd ∧ s.engine.phase = .idle ∧ (s.writeReg r v).engine.irq = false) := by
  rcases s.writeReg_cases r v with ⟨hc, hv, hw⟩ | ⟨hc, hv, hw⟩ | ⟨hs, hw⟩ | ⟨_, _, _, _, hw⟩ | ⟨_, _, _, _, hw⟩ |
    ⟨hcmd, hp, hw⟩ | ⟨_, _, _, _, hw⟩ <;> rw [hw]
  · exact .inr (.inl ⟨hc, by rw [hv]; rfl⟩)
  · exact .inr (.inl ⟨hc, by rw [hv]; rfl⟩)
  · exact .inr (.inr (.inl ⟨hs, s.engine.statusWrite_irq v⟩))
  · exact .inl rfl
  · exact .inl rfl
  · exact .inr (.inr (.inr ⟨hcmd, hp, s.engine.accept_irq v _⟩))
  · exact .inl (s.engine.storeReg_irq r v)

/-- A host transaction keeps `irq`, unless it is a WR to CTRL or STATUS, or to CMD in IDLE. -/
theorem exec_tx_irq {i : Instr} (hi : i.isCmdWord = false) {s t : State} (h : exec i s = .next t) :
    t.engine.irq = s.engine.irq ∨
    (∃ v, i = .wr 0x08 v ∧ t.engine.irq = (!v[1] && (v[0] && s.engine.done))) ∨
    (∃ v, i = .wr 0x10 v ∧ t.engine.irq = (s.engine.irq && !v[1])) ∨
    (∃ v, i = .wr 0x0C v ∧ s.engine.phase = .idle ∧ t.engine.irq = false) := by
  obtain ⟨-, -, -, ⟨-, he⟩ | ⟨off, v, rfl, ha, -, he⟩⟩ := exec_tx_cases hi h <;> rw [he]
  · exact .inl rfl
  · rcases s.writeReg_irq (regAt off) v with hw | ⟨hc, hw⟩ | ⟨hs, hw⟩ | ⟨hcmd, hp, hw⟩
    · exact .inl hw
    · obtain rfl := (regAt_eq_ctrl ha).mp hc
      exact .inr (.inl ⟨v, rfl, hw⟩)
    · obtain rfl := (regAt_eq_status ha).mp hs
      exact .inr (.inr (.inl ⟨v, rfl, hw⟩))
    · obtain rfl := (regAt_eq_cmd ha).mp hcmd
      exact .inr (.inr (.inr ⟨v, rfl, hp, hw⟩))

/-- After a completion `irq` is the IRQ_EN the command found, because no command writes CTRL (44_maintenance.md R201,
R203). -/
theorem exec_command_irq {c : Instr} (hc : c.isCmdWord = true) {s t : State} (h : exec c s = .next t) :
    t.engine.irq = s.engine.irqEn := by
  obtain ⟨x, code, hx⟩ := exec_command_writeSet hc s
  cases hx.symm.trans h
  exact Engine.report_irq _ code

/-- What a step that answers does to `irq`: nothing, or its move is one of R227's events and gives `irq` its value. -/
theorem step_irq {s t : State} (h : step s = .next t) :
    t.engine.irq = s.engine.irq ∨
    (∃ u, nextMove s = .hardReset u ∧ t.engine.irq = false) ∨
    (∃ c u, nextMove s = .run c u ∧ c.isCmdWord = true ∧ t.engine.irq = s.engine.irqEn) ∨
    (∃ v u, nextMove s = .run (.wr 0x08 v) u ∧ t.engine.irq = (!v[1] && (v[0] && s.engine.done))) ∨
    (∃ v u, nextMove s = .run (.wr 0x10 v) u ∧ t.engine.irq = (s.engine.irq && !v[1])) ∨
    (∃ v u, nextMove s = .run (.wr 0x0C v) u ∧ s.engine.phase = .idle ∧ t.engine.irq = false) := by
  rcases step_cases h with ⟨l, -, hm, rfl⟩ | ⟨p, n, -, -, hm, he⟩ | ⟨w, i, -, -, hd, hm, he⟩ | ⟨-, -, -, rfl⟩
  · exact .inr (.inl ⟨_, hm, rfl⟩)
  · have hi := decodeCmd_isCmdWord p
    exact .inr (.inr (.inl ⟨_, _, hm, hi, exec_command_irq (s := { s with rst := s.rst.tail }) hi he⟩))
  · have tx := exec_tx_irq (decodeTx_isTx hd) he
    obtain ⟨hdone, hirq⟩ := State.passSlot_done_irq { s with rst := s.rst.tail }
    rw [hdone, hirq] at tx
    rcases tx with ht | ⟨v, rfl, ht⟩ | ⟨v, rfl, ht⟩ | ⟨v, rfl, hp, ht⟩
    · exact .inl ht
    · exact .inr (.inr (.inr (.inl ⟨v, _, hm, ht⟩)))
    · exact .inr (.inr (.inr (.inr (.inl ⟨v, _, hm, ht⟩))))
    · have hidle := State.phase_idle_of_passSlot (s := { s with rst := s.rst.tail }) hp
      exact .inr (.inr (.inr (.inr (.inr ⟨v, _, hm, hidle, ht⟩))))
  · exact .inl rfl

/-- Settles O60: each event that can change `irq` gives it a known value, which leaves only the listed events for a rise
and for a fall. -/
theorem irqRisesAndFallsOnlyAsListed : Obligations.IrqRisesAndFallsOnlyAsListed := by
  intro s t h
  refine ⟨fun low high => ?_, fun high low => ?_⟩
  · rcases step_irq h with ht | ⟨u, -, ht⟩ | ⟨c, u, hm, hc, ht⟩ | ⟨v, u, hm, ht⟩ | ⟨v, u, -, ht⟩ | ⟨v, u, -, -, ht⟩ <;>
      rw [ht] at high
    case inr.inr.inl => exact .inl ⟨c, u, hm, hc, high⟩
    case inr.inr.inr.inl =>
      obtain ⟨-, hv, hdone⟩ : v[1] = false ∧ v[0] = true ∧ s.engine.done = true := by simpa using high
      exact .inr ⟨v, u, hm, hv, hdone⟩
    all_goals simp [low] at high
  · obtain ⟨hen, hdone⟩ : s.engine.irqEn = true ∧ s.engine.done = true := Bool.and_eq_true_iff.mp high
    rcases step_irq h with ht | ⟨u, hm, -⟩ | ⟨c, u, -, -, ht⟩ | ⟨v, u, hm, ht⟩ | ⟨v, u, hm, ht⟩ | ⟨v, u, hm, hp, -⟩
    · cases high.symm.trans (ht.symm.trans low)
    · exact .inr (.inr (.inr ⟨u, hm⟩))
    · cases hen.symm.trans (ht.symm.trans low)
    · have hv : v[1] = false → v[0] = false := by simpa [hdone] using ht.symm.trans low
      exact .inr (.inr (.inl ⟨v, u, hm, (Bool.eq_false_or_eq_true v[1]).symm.imp_left hv⟩))
    · have hv : v[1] = true := by simpa [high] using ht.symm.trans low
      exact .inl ⟨v, u, hm, hv⟩
    · exact .inr (.inl ⟨v, u, hm, hp⟩)

end Sys2Proof.Machine
end

section
/-!
# Reset and the BUSY window (70_reset_and_hazards.md R260, R261, R263, R266, R270, R271, R275)
-/
namespace Sys2Proof.Machine

/-! ### Reads inside the BUSY window (R270) -/

/-- Only its own offset selects LOADED. -/
theorem regAt_eq_loaded {off : BitVec 8} (ha : off.toNat % 4 = 0) : regAt off = .loaded ↔ off = 0x14 := by
  apply forall_aligned _ ha
  decide

/-- Which bits of the register at an offset a pending command makes unspecified. -/
theorem unspecifiedBits_regAt (c : Instr) {off : BitVec 8} (ha : off.toNat % 4 = 0) :
    unspecifiedBits c (regAt off) =
      if off = 0x14 then 0x1FF else if off = 0x10 then 0x70
      else if mayWrite c (regAt off) then readableBits (regAt off) else 0 := by
  simp only [← regAt_eq_loaded ha, ← regAt_eq_status ha]
  cases regAt off <;> rfl

/-- While BUSY a read agrees with the register in every specified bit, and draws a free value only if some bit is
unspecified. -/
theorem State.readReg_of_busy {s : State} {p : Word} {n : Nat} (hp : s.engine.phase = .busy p n) (r : Reg) :
    (s.readReg r).1 &&& ~~~unspecifiedBits (decodeCmd p) r =
        s.engine.readReg r &&& ~~~unspecifiedBits (decodeCmd p) r ∧
      (unspecifiedBits (decodeCmd p) r = 0 → (s.readReg r).2.draws = s.draws) := by
  rcases s.readReg_cases r with hr | ⟨q, m, hq, hne, hr⟩ <;> rw [hr]
  · exact ⟨rfl, fun _ => rfl⟩
  · cases hp.symm.trans hq
    refine ⟨?_, fun h => absurd h hne⟩
    ext i hi
    simp only [BitVec.getElem_and, BitVec.getElem_or, BitVec.getElem_not]
    cases (unspecifiedBits (decodeCmd p) r)[i] <;> simp

/-- Settles O20: the bits listed as free are those that `unspecifiedBits` names. -/
theorem busyReadsAreRightOutsideWriteSet : Obligations.BusyReadsAreRightOutsideWriteSet := by
  intro s p n off hp ha
  refine ⟨_, _, exec_rd ha rfl s, ?_⟩
  rw [← unspecifiedBits_regAt (decodeCmd p) ha]
  exact State.readReg_of_busy hp (regAt off)

/-! ### Writes inside the BUSY window (R271) -/

/-- CMD, the parameter registers and the words of the tracked fields are writable. -/
theorem regAt_writable {off : BitVec 8} (ha : off.toNat % 4 = 0)
    (h : off ∈ ([0x0C, 0x18, 0x1C, 0x20, 0x24, 0x28] : List (BitVec 8)) ∨ 0x30 ≤ off.toNat ∧ off.toNat < 0xA0 ∨
      0xC0 ≤ off.toNat ∧ off.toNat < 0xD8) : regWritable (regAt off) = true := by
  revert h
  apply forall_aligned _ ha
  decide

/-- While BUSY a WR to a writable register sets WERR and advances, and nothing else. -/
theorem exec_wr_dropped {off : BitVec 8} {r : Reg} (ha : off.toNat % 4 = 0) (hr : regAt off = r)
    (hw : regWritable r = true) (v : Word) {s : State} {p : Word} {n : Nat} (hp : s.engine.phase = .busy p n) :
    exec (.wr off v) s = .next { s with engine := { s.engine with werr := true }, pc := s.pc + 1 } := by
  obtain ⟨hc, hs⟩ : r ≠ .ctrl ∧ r ≠ .status := by constructor <;> rintro rfl <;> cases hw
  rw [exec_wr ha hr, State.writeReg_of_busy hc hs hp, if_pos hw]
  rfl

/-- Settles O29: CTRL and STATUS take a write as in IDLE, and of the other registers the writable ones report the
drop. -/
theorem busyWritesAreDropped : Obligations.BusyWritesAreDropped := by
  intro s p n off v hp ha
  obtain ⟨setsIrqEn, resets, -⟩ := ctrlWritesAndReads s v
  refine ⟨?_, ?_, ?_, fun h => exec_wr_dropped ha rfl (regAt_writable ha h) v hp, fun h => ?_⟩
  · rintro rfl
    exact resets
  · rintro rfl
    exact setsIrqEn
  · rintro rfl
    exact exec_wr ha regAt_status v s
  · obtain ⟨hc, hs, hw⟩ := regAt_readOnly ha (by simpa [or_assoc] using h)
    exact exec_wr_ignored ha rfl hc hs hw v s

/-! ### Steps of a pending command (R266, R275) -/

/-- A step that answers where a completion is due ends IDLE, by the completion or by a reset. -/
theorem step_phase_of_due {s t : State} {p : Word} (hp : s.engine.phase = .busy p 0) (h : step s = .next t) :
    t.engine.phase = .idle := by
  rcases step_cases h with ⟨l, -, -, rfl⟩ | ⟨q, m, -, -, -, he⟩ | ⟨w, i, -, hnotDue, -⟩ | ⟨hidle, -⟩
  · rfl
  · obtain ⟨r, hr⟩ := exec_command (decodeCmd_isCmdWord q) { s with rst := s.rst.tail }
    cases hr.symm.trans he
    rfl
  · exact absurd hp (hnotDue p)
  · cases hp.symm.trans hidle

/-- Settles O58: a slot passes at each step that does not end the window, and with none left the window ends. -/
theorem pendingCommandProgresses : Obligations.PendingCommandProgresses := by
  intro s t p n hp h
  cases n with
  | zero => exact .inl (step_phase_of_due hp h)
  | succ n =>
    rcases step_phase_of_busy hp h with ⟨hidle, -⟩ | hbusy
    · exact .inl hidle
    · exact .inr ⟨n, n.lt_succ_self, hbusy⟩

/-- Settles O11: with no transaction to fetch the live move is the completion or a wait. -/
theorem endOfProgramCompletesOrWaits : Obligations.EndOfProgramCompletesOrWaits := by
  intro s hrst hend
  have hf : State.fetch { s with rst := s.rst.tail } = none := hend
  refine ⟨fun p n hp => ?_, fun hp => ?_⟩
  · cases n with
    | zero => exact dueCompletionRunsPending s p hrst hp
    | succ n => simp only [step, nextMove_live hrst, liveMove, hp, hf]
  · simp only [step, nextMove_live hrst, liveMove, hp, hf]

/-! ### Reset (R260, R261) -/

/-- In the reset state every field is zero with its mask clear, as after a ZEROIZE, which finds nothing to clear
there. -/
theorem Engine.reset_zeroed (f : Field) :
    Engine.reset.bytesOf f = List.replicate (fieldBytes f) 0 ∧ ∀ w, Engine.reset.maskBit f w = false := by
  have unchanged : (zeroizeRun Engine.reset).engine = Engine.reset := rfl
  exact unchanged ▸ zeroizeRun_zeroed Engine.reset f

/-- Settles O12: an asserted level is a move of its own, and the table is read off the reset state. -/
theorem hardwareResetState : Obligations.HardwareResetState := by
  have status : statusWord Engine.reset = 0 := by decide
  have unloaded : loadedWord Engine.reset = 0 := by decide
  refine ⟨fun s l hrst => ?_, rfl, rfl, rfl, status, rfl, rfl, rfl, rfl, rfl, rfl, rfl, Engine.reset_zeroed, unloaded,
    rfl⟩
  simp only [step, nextMove, hrst]
  rfl

/-- Settles O13: bit 1 of a CTRL write decides, and the values are those of the reset state. -/
theorem softResetAborts : Obligations.SoftResetAborts := by
  intro s v hv
  obtain ⟨-, resets, -⟩ := ctrlWritesAndReads s v
  exact ⟨resets hv, rfl, rfl, rfl, rfl, rfl⟩

/-- Settles O52: the engine is in its reset state, and the counter is at the start of an empty program. -/
theorem resetMeetsInvariant : Obligations.ResetMeetsInvariant := ⟨Engine.reset_inv, Nat.le_refl 0⟩

end Sys2Proof.Machine
end

section
/-!
# The word placed where the next step fetches (44_maintenance.md R201; 20_memory.md R74, R75)
-/
namespace Sys2Proof.Machine

theorem decodeTableWord_eq_some {nbits w : Nat} {i : Instr} :
    decodeTableWord nbits w = some i ↔ decode (rawOfNat nbits w) = .ok i := by
  unfold decodeTableWord
  cases decode (rawOfNat nbits w) <;> simp

/-! ### The placing -/

section
variable {s : State} {nbits w : Nat}

theorem State.withFetchWord_rst : (s.withFetchWord nbits w).rst = [] := by
  unfold State.withFetchWord
  split <;> rfl

theorem State.withFetchWord_rst_head : (s.withFetchWord nbits w).rst.head? ≠ some true := by
  simp [State.withFetchWord_rst]

theorem State.withFetchWord_rst_tail :
    { s.withFetchWord nbits w with rst := (s.withFetchWord nbits w).rst.tail } = s.withFetchWord nbits w := by
  have tail : (s.withFetchWord nbits w).rst.tail = (s.withFetchWord nbits w).rst := by simp [State.withFetchWord_rst]
  rw [tail]

theorem State.withFetchWord_phase_of_cmd32 {word : Word} (h : rawOfNat nbits w = .cmd32 word) :
    (s.withFetchWord nbits w).engine.phase = .busy word 0 := by
  simp only [State.withFetchWord, h]

/-- A placed transaction is the word at the counter: the words before it, filled up with zeros, are as many as the
counter says. -/
theorem State.withFetchWord_fetch_of_hosttx {word : TxWord} (h : rawOfNat nbits w = .hosttx word) :
    (s.withFetchWord nbits w).fetch = some word := by
  have before : (s.program.take s.pc ++ List.replicate (s.pc - s.program.length) 0).length = s.pc := by
    simp only [List.length_append, List.length_take, List.length_replicate]
    omega
  simp only [State.fetch, State.withFetchWord, h]
  rw [List.getElem?_append_right before.le, before, Nat.sub_self, List.getElem?_cons_zero]

/-- With a transaction placed no completion is due: one that was is held back a slot. -/
theorem State.withFetchWord_not_due_of_hosttx {word : TxWord} (h : rawOfNat nbits w = .hosttx word) (p : Word) :
    (s.withFetchWord nbits w).engine.phase ≠ .busy p 0 := by
  simp only [State.withFetchWord, h]
  rcases s.engine.phase with _ | ⟨q, _ | n⟩ <;> simp

end

/-! ### The step -/

/-- No slot passes where the completion is due. -/
theorem State.passSlot_of_due {s : State} {p : Word} (hp : s.engine.phase = .busy p 0) : s.passSlot = s := by
  simp only [State.passSlot, hp, Nat.zero_sub]
  rw [← hp]

/-- Settles O8: a placed command word is the due completion, and a placed transaction is fetched with none due. -/
theorem stepRunsPlacedWord : Obligations.StepRunsPlacedWord := by
  intro s nbits w i hi
  have decoded := decodeTableWord_eq_some.mp hi
  cases hraw : rawOfNat nbits w with
  | cmd32 word =>
    have due := State.withFetchWord_phase_of_cmd32 (s := s) hraw
    have command : decodeCmd word = i := by simpa [hraw, decode] using decoded
    rw [dueCompletionRunsPending _ word State.withFetchWord_rst_head due, State.withFetchWord_rst_tail,
      State.passSlot_of_due due, command]
  | hosttx word =>
    have transaction : decodeTx word = .ok i := by simpa [hraw, decode] using decoded
    rw [step_of_fetch State.withFetchWord_rst_head (State.withFetchWord_fetch_of_hosttx hraw) transaction
      (State.withFetchWord_not_due_of_hosttx hraw), State.withFetchWord_rst_tail]

end Sys2Proof.Machine
end
